-- ==== Sys2Proof/Word.lean ====
section
/-! DEFINITION. The bit widths of the block's values (00_scope.md R8, R10). Nothing is signed (R8). -/

namespace Sys2Proof

/-- One byte, 0..255 (R8). -/
abbrev Byte := BitVec 8

/-- One nibble, 0..15 (R8). -/
abbrev Nibble := BitVec 4

/-- One bit. -/
abbrev Bit := BitVec 1

/-- `U16` of R10, 0..65535. -/
abbrev U16 := BitVec 16

end Sys2Proof
end

