-- ==== Sys2Proof/Config.lean ====
section
/-! DEFINITION. The parameters of 00_scope.md R6 that shape the model's types. The values a test could show wrong
(sentinels, offsets, masks, label tables) are in `Machine/Params.lean` and `Machine/RegisterMap.lean`. -/

namespace Sys2Proof

/-- FRAME_LEN: the bytes of a RawFrame (R6, R81). -/
abbrev Config.frameLen : Nat := 74

/-- PAYLOAD_LEN: the bytes the checksum covers and the Register Map addresses (R6). -/
abbrev Config.payloadLen : Nat := 72

/-- RUN_OFF is OPEN and must satisfy `0 <= RUN_OFF <= 71` (R6, R61): a value out of range is refused before reset, here by the type. -/
abbrev RunOff := Fin 72

/-- The default of RUN_OFF (R6). Only `State.reset` uses it; every operation reads the state's own `runOff`. -/
def Config.runOffDefault : RunOff := 7

end Sys2Proof
end

