-- ==== Sys2Proof/Syntax.lean ====
section
/-! DEFINITION. The input events (R89), the values of `fsm` (R21), the fields of the Register Map (R95) and the operations of
spec/opcode_table.json, one constructor a row, in the table's order. -/

namespace Sys2Proof

/-- The three persistent values of the state machine register (R21). -/
inductive Fsm where
  | seekingStart
  | readingBody
  | checkingEnd
  deriving DecidableEq, Repr

/-- One input event (R89). -/
inductive InEvent where
  /-- The source delivered one byte. -/
  | byte (b : Byte)
  /-- A failed, short or timed-out read that the source may survive. -/
  | rdFail
  /-- The source has failed irrecoverably. -/
  | fatal
  deriving DecidableEq, Repr

/-- The fields of the Register Map in the order of their ids 0..9 (R95). -/
inductive FieldId where
  | cfg | mode | dir | cyc | run | iout | vout | vin | qout | time
  deriving DecidableEq, Repr

/-- The operations of the block (R99), in the order of spec/opcode_table.json. -/
inductive Instr where
  /-- HALTED (R129). -/
  | halted
  /-- FATAL (R128). -/
  | fatal
  /-- IDLEFAIL (R126). -/
  | idleFail
  /-- ABORT.B (R127). -/
  | abortB
  /-- ABORT.E (R127). -/
  | abortE
  /-- START (R122). -/
  | start
  /-- SKIP of the byte `b` (R121). -/
  | skip (b : Byte)
  /-- BODY storing the byte `b` (R123). -/
  | body (b : Byte)
  /-- END (R124); `end` is a word of Lean. -/
  | endFrame
  /-- ENDMISS on the byte `b` (R125). -/
  | endMiss (b : Byte)
  /-- CKSUM (R150). -/
  | cksum
  /-- CKEXT (R151). -/
  | ckext
  /-- CKVFY (R152). -/
  | ckvfy
  /-- RAWB (R160). -/
  | rawb (b0 : Byte)
  /-- FIXF (R161). -/
  | fixf (b0 b1 : Byte)
  /-- SCLI (R162). -/
  | scli (b0 b1 : Byte)
  /-- NIBLO (R163). -/
  | niblo (b0 : Byte)
  /-- NIBHI (R164). -/
  | nibhi (b0 : Byte)
  /-- BITT with mask `m` (R165). -/
  | bitt (b0 m : Byte)
  /-- ENUM of the value `v` in a table of length `n` (R166). -/
  | enumLookup (v : Byte) (n : Nat)
  /-- F.CFG (R181). -/
  | fCfg
  /-- F.MODE (R182). -/
  | fMode
  /-- F.DIR (R183). -/
  | fDir
  /-- F.CYC (R184). -/
  | fCyc
  /-- F.RUN (R185). -/
  | fRun
  /-- F.IOUT (R186). -/
  | fIout
  /-- F.VOUT (R187). -/
  | fVout
  /-- F.VIN (R188). -/
  | fVin
  /-- F.QOUT (R189). -/
  | fQout
  /-- F.TIME (R190). -/
  | fTime
  /-- DECODE (R191). -/
  | decode
  deriving DecidableEq, Repr

/-- How a row of spec/opcode_table.json is encoded. -/
inductive Format where
  /-- STEP: the 13-bit selector word (R90, R91). -/
  | step
  /-- FUNC: "encoding": "none" (R91). -/
  | func
  /-- FIELD: the 4-bit field id (R95). -/
  | field
  deriving DecidableEq, Repr

/-- The mnemonic of each operation, as spec/opcode_table.json spells it (R99). -/
def Instr.mnemonic : Instr → String
  | .halted => "HALTED"
  | .fatal => "FATAL"
  | .idleFail => "IDLEFAIL"
  | .abortB => "ABORT.B"
  | .abortE => "ABORT.E"
  | .start => "START"
  | .skip _ => "SKIP"
  | .body _ => "BODY"
  | .endFrame => "END"
  | .endMiss _ => "ENDMISS"
  | .cksum => "CKSUM"
  | .ckext => "CKEXT"
  | .ckvfy => "CKVFY"
  | .rawb _ => "RAWB"
  | .fixf _ _ => "FIXF"
  | .scli _ _ => "SCLI"
  | .niblo _ => "NIBLO"
  | .nibhi _ => "NIBHI"
  | .bitt _ _ => "BITT"
  | .enumLookup _ _ => "ENUM"
  | .fCfg => "F.CFG"
  | .fMode => "F.MODE"
  | .fDir => "F.DIR"
  | .fCyc => "F.CYC"
  | .fRun => "F.RUN"
  | .fIout => "F.IOUT"
  | .fVout => "F.VOUT"
  | .fVin => "F.VIN"
  | .fQout => "F.QOUT"
  | .fTime => "F.TIME"
  | .decode => "DECODE"

/-- The format of each operation, as spec/opcode_table.json gives it. -/
def Instr.format : Instr → Format
  | .halted | .fatal | .idleFail | .abortB | .abortE => .step
  | .start | .skip _ | .body _ | .endFrame | .endMiss _ => .step
  | .cksum | .ckext | .ckvfy => .func
  | .rawb _ | .fixf _ _ | .scli _ _ | .niblo _ | .nibhi _ | .bitt _ _ | .enumLookup _ _ => .func
  | .fCfg | .fMode | .fDir | .fCyc | .fRun => .field
  | .fIout | .fVout | .fVin | .fQout | .fTime => .field
  | .decode => .func

end Sys2Proof
end

