-- ==== Sys2Proof/Machine/Params.lean ====
section
/-! DEFINITION. The sentinel bytes and the spec's numeric codes (R82, R89, R90, R94, R95). -/

namespace Sys2Proof.Machine

/-- START_SENTINEL, the character of code 0x7B (R6, R82). UNVERIFIED: the spec takes the value from ASCII (93 G1; log entry 7), unsafe. -/
def startSentinel : Byte := 0x7B#8

/-- END_SENTINEL, the character of code 0x7D (R6, R82). UNVERIFIED: the spec takes the value from ASCII (93 G1; log entry 7), unsafe. -/
def endSentinel : Byte := 0x7D#8

/-- The 2-bit code of `fsm` (R90). -/
def fsmCode : Fsm → BitVec 2
  | .seekingStart => 0b00#2
  | .readingBody => 0b01#2
  | .checkingEnd => 0b10#2

/-- The value of `fsm` a code stands for; 11 is unused and unreachable (R90, R96(f)). -/
def fsmOfCode (c : BitVec 2) : Option Fsm :=
  if c = 0b00#2 then some .seekingStart
  else if c = 0b01#2 then some .readingBody
  else if c = 0b10#2 then some .checkingEnd
  else none

/-- The 2-bit code of an input event (R89). -/
def evCode : InEvent → BitVec 2
  | .byte _ => 0b00#2
  | .rdFail => 0b01#2
  | .fatal => 0b10#2

/-- The operand byte of an input event; `RdFail` and `Fatal` have none and the selector word ignores the field (R89, R90). -/
def evByte : InEvent → Byte
  | .byte b => b
  | .rdFail => 0#8
  | .fatal => 0#8

/-- The input event an event code and operand byte stand for; 11 is reserved (R89, R96(f)). -/
def evOfCode (c : BitVec 2) (b : Byte) : Option InEvent :=
  if c = 0b00#2 then some (.byte b)
  else if c = 0b01#2 then some .rdFail
  else if c = 0b10#2 then some .fatal
  else none

/-- The field ids (R95). -/
def fieldCode : FieldId → Nibble
  | .cfg => 0#4
  | .mode => 1#4
  | .dir => 2#4
  | .cyc => 3#4
  | .run => 4#4
  | .iout => 5#4
  | .vout => 6#4
  | .vin => 7#4
  | .qout => 8#4
  | .time => 9#4

end Sys2Proof.Machine
end

