-- ==== Sys2Proof/WellFormed.lean ====
section
/-! DEFINITION. When an operation's operands are the ones the spec allows: SKIP and ENDMISS are what START and END leave
(R91 rows 7 and 10), BITT's mask has exactly one bit set (R165), ENUM's table length is 7 or 2 (R166; log entry 14). -/

namespace Sys2Proof

/-- Exactly one bit of the mask is set (R165). -/
def oneBit (m : Byte) : Bool :=
  (List.range 8).any fun k => m == 1#8 <<< k

/-- The operands are ones the spec allows. -/
def Instr.wf : Instr → Bool
  | .skip b => b != Machine.startSentinel
  | .endMiss b => b != Machine.endSentinel
  | .bitt _ m => oneBit m
  | .enumLookup _ n => n == 7 || n == 2
  | .halted | .fatal | .idleFail | .abortB | .abortE | .start | .body _ | .endFrame => true
  | .cksum | .ckext | .ckvfy | .rawb _ | .fixf _ _ | .scli _ _ | .niblo _ | .nibhi _ => true
  | .fCfg | .fMode | .fDir | .fCyc | .fRun | .fIout | .fVout | .fVin | .fQout | .fTime => true
  | .decode => true

end Sys2Proof
end

