-- ==== Sys2Proof/Decode.lean ====
section
/-! DEFINITION. The decoder and the encoder. A step operation is selected by the 13-bit selector word (R90, R91), laid out in two
bytes, the low byte first; a field operation by its 4-bit field id (R95), laid out in one byte. The other functions have no
encoding ("encoding": "none" in spec/opcode_table.json; R91). The byte layout is the model's (log entry 5). -/

namespace Sys2Proof

/-- Why a word is no instruction. -/
inductive DecodeError where
  /-- The event code is 11: reserved, not an input (R89, R96(f)). -/
  | reservedEvent
  /-- The state code is 11: unused and unreachable (R90, R96(f)). -/
  | unusedState
  /-- A field id above 9 (R95). -/
  | noSuchField
  /-- A bit above the 13 of a selector word or the 4 of a field id is set. -/
  | strayBits
  /-- Not one byte and not two. -/
  | wrongLength
  deriving DecidableEq, Repr

/-- The selector word `SW = halted, fsm, ev, b`, from bit 12 down to bit 0 (R90). -/
def selectorWord (halted : Bool) (fsm : Fsm) (ev : InEvent) : BitVec 13 :=
  BitVec.ofBool halted ++ Machine.fsmCode fsm ++ Machine.evCode ev ++ Machine.evByte ev

/-- Bit 12 of the selector word (R90). -/
def selectorHalted (w : BitVec 13) : Bool := w.getLsbD 12

/-- Bits 11:10 of the selector word (R90). -/
def selectorFsm (w : BitVec 13) : BitVec 2 := w.extractLsb' 10 2

/-- Bits 9:8 of the selector word (R90). -/
def selectorEv (w : BitVec 13) : BitVec 2 := w.extractLsb' 8 2

/-- Bits 7:0 of the selector word (R90). -/
def selectorByte (w : BitVec 13) : Byte := w.extractLsb' 0 8

/-- The operation map in words (R91): the ten conditions, in the table's order. -/
def selectOp (halted : Bool) (fsm : Fsm) (ev : InEvent) : Instr :=
  if halted then .halted
  else match ev, fsm with
    | .fatal, _ => .fatal
    | .rdFail, .seekingStart => .idleFail
    | .rdFail, .readingBody => .abortB
    | .rdFail, .checkingEnd => .abortE
    | .byte b, .seekingStart => if b = Machine.startSentinel then .start else .skip b
    | .byte b, .readingBody => .body b
    | .byte b, .checkingEnd => if b = Machine.endSentinel then .endFrame else .endMiss b

/-- Decode a selector word. A word whose state or event code is 11 is no encoding (R96(f); DEDUCED, log entry 6): it is refused
before the rows of R91 are tried. -/
def decodeSelector (w : BitVec 13) : Except DecodeError Instr :=
  match Machine.fsmOfCode (selectorFsm w), Machine.evOfCode (selectorEv w) (selectorByte w) with
  | none, _ => .error .unusedState
  | some _, none => .error .reservedEvent
  | some fsm, some ev => .ok (selectOp (selectorHalted w) fsm ev)

/-- The rows of R91 in their order: mnemonic, mask, match. -/
def selectorRows : List (String × BitVec 13 × BitVec 13) :=
  [("HALTED", 0x1000#13, 0x1000#13),
   ("FATAL", 0x1300#13, 0x0200#13),
   ("IDLEFAIL", 0x1F00#13, 0x0100#13),
   ("ABORT.B", 0x1F00#13, 0x0500#13),
   ("ABORT.E", 0x1F00#13, 0x0900#13)] ++
  [("START", 0x1FFF#13, 0x007B#13),
   ("SKIP", 0x1F00#13, 0x0000#13),
   ("BODY", 0x1F00#13, 0x0400#13),
   ("END", 0x1FFF#13, 0x087D#13),
   ("ENDMISS", 0x1F00#13, 0x0800#13)]

/-- "The first that matches selects the operation; SW & mask == match" (R91). -/
def firstRow (w : BitVec 13) : Option String :=
  (selectorRows.find? fun r => (w &&& r.2.1) == r.2.2).map fun r => r.1

/-- Decode a field id (R95). -/
def decodeField (c : Nibble) : Except DecodeError Instr :=
  match c.toNat with
  | 0 => .ok .fCfg
  | 1 => .ok .fMode
  | 2 => .ok .fDir
  | 3 => .ok .fCyc
  | 4 => .ok .fRun
  | 5 => .ok .fIout
  | 6 => .ok .fVout
  | 7 => .ok .fVin
  | 8 => .ok .fQout
  | 9 => .ok .fTime
  | _ => .error .noSuchField

/-- Decode any bytes: one byte holds a field id, two hold a selector word. -/
def decodeBytes : List Byte → Except DecodeError Instr
  | [c] => if c.extractLsb' 4 4 = 0#4 then decodeField (c.extractLsb' 0 4) else .error .strayBits
  | [lo, hi] =>
    if hi.extractLsb' 5 3 = 0#3 then decodeSelector (hi.extractLsb' 0 5 ++ lo) else .error .strayBits
  | _ => .error .wrongLength

/-- The two bytes of a selector word. -/
def selectorBytes (w : BitVec 13) : List Byte :=
  [w.extractLsb' 0 8, (w.extractLsb' 8 5).setWidth 8]

/-- The byte of a field id. -/
def fieldByte (f : FieldId) : List Byte :=
  [(Machine.fieldCode f).setWidth 8]

/-- The bytes of an operation, from the match column of R91 (bits the mask leaves free are the operand byte, or 0) and the field
ids of R95; none for a function, which has no encoding. -/
def encode : Instr → Option (List Byte)
  | .halted => some (selectorBytes 0x1000#13)
  | .fatal => some (selectorBytes 0x0200#13)
  | .idleFail => some (selectorBytes 0x0100#13)
  | .abortB => some (selectorBytes 0x0500#13)
  | .abortE => some (selectorBytes 0x0900#13)
  | .start => some (selectorBytes 0x007B#13)
  | .skip b => some (selectorBytes (0x0000#13 ||| b.setWidth 13))
  | .body b => some (selectorBytes (0x0400#13 ||| b.setWidth 13))
  | .endFrame => some (selectorBytes 0x087D#13)
  | .endMiss b => some (selectorBytes (0x0800#13 ||| b.setWidth 13))
  | .fCfg => some (fieldByte .cfg)
  | .fMode => some (fieldByte .mode)
  | .fDir => some (fieldByte .dir)
  | .fCyc => some (fieldByte .cyc)
  | .fRun => some (fieldByte .run)
  | .fIout => some (fieldByte .iout)
  | .fVout => some (fieldByte .vout)
  | .fVin => some (fieldByte .vin)
  | .fQout => some (fieldByte .qout)
  | .fTime => some (fieldByte .time)
  | .cksum | .ckext | .ckvfy | .rawb _ | .fixf _ _ | .scli _ _ | .niblo _ | .nibhi _ => none
  | .bitt _ _ | .enumLookup _ _ | .decode => none

/-- The bytes of a table word of `nbits` bits, the low byte first. -/
def tableBytes (nbits w : Nat) : List Byte :=
  (List.range ((nbits + 7) / 8)).map fun k => BitVec.ofNat 8 (w >>> (8 * k))

/-- The operation the decoder reads from a word of spec/opcode_table.json. -/
def decodeTableWord (nbits w : Nat) : Option Instr :=
  match decodeBytes (tableBytes nbits w) with
  | .ok i => some i
  | .error _ => none

end Sys2Proof
end

