-- ==== Sys2Proof/Machine/State.lean ====
section
/-! DEFINITION. The state of the block (10_state.md), its output events (R92 to R94), and why the model may stop. -/

namespace Sys2Proof.Machine

/-- The frame buffer as memory: the live cells as (address, byte) pairs in rising order. An unlisted cell is dead and has no value (R27). -/
abbrev Memory := List Host.Cell

/-- The canonical form: addresses strictly rising. An unlisted address reads as nothing, so no entry can equal that. -/
abbrev Memory.wf (m : Memory) : Prop := m.Pairwise fun a b => a.1 < b.1

/-- A RawFrame: exactly 74 bytes, cells 0..71 the payload, cells 72 and 73 the trailer (R10, R81). -/
structure RawFrame where
  bytes : List Byte
  length_eq : bytes.length = Config.frameLen
  deriving DecidableEq, Repr

/-- The four config bits of F.CFG (R84, R181). -/
structure CfgBits where
  safetyTimer : Bit
  capacityCutoff : Bit
  keyBeep : Bit
  buzzer : Bit
  deriving DecidableEq, Repr

/-- The Message record, thirteen fields at the widths of R93. -/
structure Message where
  cfgSafetyTimer : Bit
  cfgCapacityCutoff : Bit
  cfgKeyBeep : Bit
  cfgBuzzer : Bit
  mode : BitVec 3
  dir : Bit
  cyc : Bit
  run : Bit
  ioutC : U16
  voutC : U16
  vinC : U16
  qout : U16
  time : U16
  deriving DecidableEq, Repr

/-- The result of ENUM: the index, or the failure `OutOfRange` (R166). -/
inductive EnumResult where
  | ok (v : Byte)
  | outOfRange
  deriving DecidableEq, Repr

/-- The result of DECODE (R191). -/
inductive DecodeResult where
  | ok (msg : Message)
  | checksumMismatch (computed transmitted : Byte)
  | outOfRange (field : FieldId) (value : Byte)
  deriving DecidableEq, Repr

/-- The error kinds with what each records (R94, R210). -/
inductive ErrorEvent where
  /-- FramingError, sub-cause 0 EndMismatch: the byte and the 74 buffered bytes. -/
  | endMismatch (b : Byte) (raw : RawFrame)
  /-- FramingError, sub-cause 1 ReadFailBody: the number of bytes stored. -/
  | readFailBody (cnt : Nat)
  /-- FramingError, sub-cause 2 ReadFailEnd. -/
  | readFailEnd
  /-- ChecksumMismatch: computed, transmitted, the RawFrame. -/
  | checksumMismatch (computed transmitted : Byte) (raw : RawFrame)
  /-- DecodeError(OutOfRange): field id, raw value, the RawFrame. -/
  | outOfRange (field : FieldId) (value : Byte) (raw : RawFrame)
  /-- StreamFatalError. -/
  | streamFatal
  deriving DecidableEq, Repr

/-- One output event (R92). -/
inductive OutEvent where
  | none
  | valid (msg : Message) (raw : RawFrame)
  | invalid (err : ErrorEvent)
  deriving DecidableEq, Repr

/-- The value of a combinational function evaluated on its own by `exec` (the model's own; log entry 3). -/
inductive FuncResult where
  | idle
  | byte (v : Byte)
  | verdict (ok : Bool)
  | word (v : U16)
  | nibble (v : Nibble)
  | bit (v : Bit)
  | enumerated (r : EnumResult)
  | config (c : CfgBits)
  | decoded (r : DecodeResult)
  deriving DecidableEq, Repr

/-- The state. `fsm`, `cnt`, `buf` and `halted` are the block's whole architectural state (R20). `runOff` is the one free member of the
Register Map, fixed before reset and never written (R6, R28). `input`, `out` and `fout` are the model's own: the events the byte source
has still to deliver (R31), the output event of the latest step (R92), and the value of the function `exec` evaluated last. -/
structure State where
  fsm : Fsm
  cnt : Nat
  buf : Memory
  halted : Bool
  runOff : RunOff
  input : List InEvent
  out : OutEvent
  fout : FuncResult
  deriving DecidableEq, Repr

/-- Why the machine stops. -/
inductive Fault where
  /-- Raised by the ten step operations when executed outside the condition that selects them (R91): R130 has no such transition.
  Never raised by `step`. Safe. -/
  | notEnabled
  /-- Raised by END, ENDMISS and the functions of the frame when a cell they read is dead: "A model that reads a dead cell has
  departed from this spec" (R27). Never raised by `step` in a state R24 allows. Safe. -/
  | deadCell
  /-- Raised by BODY when `cnt` is no cell number: the buffer has the cells 0..73 and no other (R26, R51). Never raised by `step` in a
  state R24 allows. Safe. -/
  | noSuchCell
  deriving DecidableEq, Repr

/-- Why an instruction has no meaning. -/
inductive Refusal where
  /-- Raised by an arm of `exec` for an operation without a meaning yet; there is none. Safe. -/
  | notModelled (mnemonic : String)
  /-- Raised by `step` for a selector word that is no encoding (R96(f)); no state and event form one. Safe. -/
  | reservedSelector
  deriving DecidableEq, Repr

/-- The state after reset with the configuration `r` (R34, R251): seeking, `cnt` 0, every cell dead, not halted, output `None`.
No event has been offered and no function evaluated (DESIGN CHOICE, log entries 1 and 3). -/
def State.resetWith (r : RunOff) : State where
  fsm := .seekingStart
  cnt := 0
  buf := []
  halted := false
  runOff := r
  input := []
  out := .none
  fout := .idle

/-- The state after reset with the default RUN_OFF (R6, R34). -/
def State.reset : State := State.resetWith Config.runOffDefault

end Sys2Proof.Machine
end

