-- ==== Sys2Proof/Machine/Flags.lean ====
section
/-! DEFINITION. The only flag, `halted` (R25), and the codes of errors and outputs (R92, R94). -/

namespace Sys2Proof.Machine

/-- Only StreamFatalError is fatal (R210, R214). -/
def ErrorEvent.isFatal : ErrorEvent → Bool
  | .streamFatal => true
  | .endMismatch _ _ | .readFailBody _ | .readFailEnd => false
  | .checksumMismatch _ _ _ | .outOfRange _ _ _ => false

/-- `halted` after raising an error: set by StreamFatalError, cleared by nothing (R25, R214). -/
def haltedAfter (e : ErrorEvent) (halted : Bool) : Bool := halted || e.isFatal

/-- The error code (R94). -/
def ErrorEvent.code : ErrorEvent → Nat
  | .endMismatch _ _ => 1
  | .readFailBody _ => 1
  | .readFailEnd => 1
  | .checksumMismatch _ _ _ => 2
  | .outOfRange _ _ _ => 3
  | .streamFatal => 4

/-- The sub-cause of a FramingError (R94); the other kinds have none. -/
def ErrorEvent.subCause : ErrorEvent → Option Nat
  | .endMismatch _ _ => some 0
  | .readFailBody _ => some 1
  | .readFailEnd => some 2
  | .checksumMismatch _ _ _ | .outOfRange _ _ _ | .streamFatal => none

/-- The 2-bit code of an output event (R92). -/
def OutEvent.code : OutEvent → BitVec 2
  | .none => 0b00#2
  | .valid _ _ => 0b01#2
  | .invalid _ => 0b10#2

end Sys2Proof.Machine
end

