-- ==== Sys2Proof/Machine/Ops.lean ====
section
/-! DEFINITION. The named operations over the buffer, the input stream and the output port, and raising an error (R9, R218). There is
no return from an error: "There is no return operation because there is nothing to return from" (R219). -/

namespace Sys2Proof.Machine

/-- The byte at an address; an unlisted address has none (R27). -/
def Memory.read : Memory → Nat → Option Byte
  | [], _ => none
  | (a, v) :: m, i => if a = i then some v else Memory.read m i

/-- Write one byte, keeping the addresses rising. -/
def Memory.write : Memory → Nat → Byte → Memory
  | [], i, b => [(i, b)]
  | (a, v) :: m, i, b =>
    if i < a then (i, b) :: (a, v) :: m
    else if i = a then (i, b) :: m
    else (a, v) :: Memory.write m i b

/-- `buf[i]`, for `0 <= i < cnt` (R9); a cell with index `>= cnt` is dead (R27). -/
def State.cell (s : State) (i : Nat) : Option Byte :=
  if i < s.cnt then Memory.read s.buf i else none

/-- `MemWrite(addr, 1, v)` (R9, R51); the buffer has 74 cells. -/
def State.memWrite (s : State) (addr : Nat) (v : Byte) : Option State :=
  if addr < Config.frameLen then some { s with buf := Memory.write s.buf addr v } else none

/-- Consume the event at the head of the stream (R50). -/
def State.consume (s : State) : State := { s with input := s.input.tail }

/-- `emit e` (R9, R92): the output event of this step. -/
def State.emit (s : State) (e : OutEvent) : State := { s with out := e }

/-- Back to SEEKING_START: `cnt` is 0 and every cell is dead (R23, R27, R218). -/
def State.seek (s : State) : State := { s with fsm := .seekingStart, cnt := 0, buf := [] }

/-- `raise` (R9, R218): emit `Invalid`, discard the candidate, seek; StreamFatalError also sets `halted` (R214). -/
def State.raise (s : State) (e : ErrorEvent) : State :=
  { s.seek.emit (.invalid e) with halted := haltedAfter e s.halted }

/-- The event offered to this step (R50). -/
def State.offered (s : State) : Option InEvent := s.input.head?

/-- The operation is the one selected for the present state and the event offered (R91, R120). -/
def State.selects (s : State) (i : Instr) : Bool :=
  match s.offered with
  | none => false
  | some ev => selectOp s.halted s.fsm ev == i

/-- Run a step operation where it is selected; elsewhere R130 has no transition for it. -/
def whenSelected (i : Instr) (s : State) (k : Host.Outcome State Fault Refusal) : Host.Outcome State Fault Refusal :=
  if s.selects i then k else .fault .notEnabled

/-- Answer the value of a combinational function: nothing else changes (R170, R192). -/
def State.answer (s : State) (r : FuncResult) : State := { s with fout := r }

/-- Host: reset, at any time (R250, R251). The candidate is discarded without an output event; the configuration and the events not yet
delivered are not the block's state and stay (log entry 13). -/
def State.hostReset (s : State) : State := { State.resetWith s.runOff with input := s.input }

/-- Host: offer one more input event, after those already offered (R254). -/
def State.offer (s : State) (ev : InEvent) : State := { s with input := s.input ++ [ev] }

end Sys2Proof.Machine
end

