-- ==== Sys2Proof/Machine/Operands.lean ====
section
/-! DEFINITION. The operand forms: the RawFrame in the buffer, and the loads `MemRead(off, 1)` and `MemRead(off, 2)` (R9, R52). -/

namespace Sys2Proof.Machine

/-- The bytes of `n` cells from cell `i` on, if all are live. -/
def State.cellsFrom (s : State) (i : Nat) : Nat → Option (List Byte)
  | 0 => some []
  | n + 1 =>
    match s.cell i, State.cellsFrom s (i + 1) n with
    | some b, some l => some (b :: l)
    | _, _ => none

/-- The RawFrame (buf[0], ..., buf[73]), if all 74 cells are live (R124, R81). -/
def State.frame? (s : State) : Option RawFrame :=
  match s.cellsFrom 0 Config.frameLen with
  | none => none
  | some l => if h : l.length = Config.frameLen then some ⟨l, h⟩ else none

/-- Cell `i` of a RawFrame. -/
def RawFrame.cell (f : RawFrame) (i : Fin 74) : Byte :=
  f.bytes[i.val]'(by rw [f.length_eq]; exact i.isLt)

/-- The 72 payload bytes (R81). -/
def RawFrame.payload (f : RawFrame) : List Byte := f.bytes.take Config.payloadLen

/-- `MemRead(off, 1)` on the payload (R52). -/
def RawFrame.byteAt (f : RawFrame) (off : Fin 72) : Byte :=
  f.cell ⟨off.val, by omega⟩

/-- `MemRead(off, 2)` on the payload: the byte at the lower offset first (R52, R53). -/
def RawFrame.pairAt (f : RawFrame) (off : Fin 71) : Byte × Byte :=
  (f.cell ⟨off.val, by omega⟩, f.cell ⟨off.val + 1, by omega⟩)

/-- Evaluate a function of the frame in the buffer and answer its value; a dead cell is never read (R27, R52). -/
def withFrame (s : State) (k : RawFrame → FuncResult) : Host.Outcome State Fault Refusal :=
  match s.frame? with
  | some f => .next (s.answer (k f))
  | none => .fault .deadCell

end Sys2Proof.Machine
end

