-- ==== Sys2Proof/Machine/Checksum.lean ====
section
/-! DEFINITION. The Checksum Unit (41_checksum.md). -/

namespace Sys2Proof.Machine

/-- CKSUM: the sum of the 72 payload bytes modulo 256 (R150). -/
def cksum (f : RawFrame) : Byte := BitVec.ofNat 8 ((f.payload.map BitVec.toNat).sum)

/-- CKEXT: the low nibble of cell 72 shifted left by 4, OR the low nibble of cell 73 (R151). -/
def ckext (f : RawFrame) : Byte := ((f.cell 72 &&& 0x0F#8) <<< 4) ||| (f.cell 73 &&& 0x0F#8)

/-- CKVFY: equality of two 8-bit unsigned values (R152). -/
def ckvfy (f : RawFrame) : Bool := cksum f == ckext f

/-- CKSUM of the frame in the buffer (R150). -/
def execCksum (s : State) : Host.Outcome State Fault Refusal := withFrame s fun f => .byte (cksum f)

/-- CKEXT of the frame in the buffer (R151). -/
def execCkext (s : State) : Host.Outcome State Fault Refusal := withFrame s fun f => .byte (ckext f)

/-- CKVFY of the frame in the buffer (R152). -/
def execCkvfy (s : State) : Host.Outcome State Fault Refusal := withFrame s fun f => .verdict (ckvfy f)

end Sys2Proof.Machine
end

