-- ==== Sys2Proof/Machine/Codec.lean ====
section
/-! DEFINITION. The Field Codec primitives (42_field_codec.md): pure functions of their operands (R170). -/

namespace Sys2Proof.Machine

/-- RAWB (R160). -/
def rawb (b0 : Byte) : Byte := b0

/-- `b0 * 100 + b1` in 16 bits: radix 100, the byte at the lower offset more significant (R53). It never wraps (R167). -/
def radix100 (b0 b1 : Byte) : U16 := b0.setWidth 16 * 100#16 + b1.setWidth 16

/-- FIXF: hundredths of the unit (R161). -/
def fixf (b0 b1 : Byte) : U16 := radix100 b0 b1

/-- SCLI: units (R162). -/
def scli (b0 b1 : Byte) : U16 := radix100 b0 b1

/-- NIBLO: bits 3:0 (R163). -/
def niblo (b0 : Byte) : Nibble := b0.extractLsb' 0 4

/-- NIBHI: bits 7:4 (R164). -/
def nibhi (b0 : Byte) : Nibble := b0.extractLsb' 4 4

/-- BITT: 1 if `b0 & m` is not 0 (R165). -/
def bitt (b0 m : Byte) : Bit := if b0 &&& m = 0#8 then 0#1 else 1#1

/-- ENUM: `Err(OutOfRange)` if `v >= n` (R166). -/
def enumLookup (v : Byte) (n : Nat) : EnumResult := if n ≤ v.toNat then .outOfRange else .ok v

/-- RAWB (R160). -/
def execRawb (b0 : Byte) (s : State) : Host.Outcome State Fault Refusal := .next (s.answer (.byte (rawb b0)))

/-- FIXF (R161). -/
def execFixf (b0 b1 : Byte) (s : State) : Host.Outcome State Fault Refusal := .next (s.answer (.word (fixf b0 b1)))

/-- SCLI (R162). -/
def execScli (b0 b1 : Byte) (s : State) : Host.Outcome State Fault Refusal := .next (s.answer (.word (scli b0 b1)))

/-- NIBLO (R163). -/
def execNiblo (b0 : Byte) (s : State) : Host.Outcome State Fault Refusal := .next (s.answer (.nibble (niblo b0)))

/-- NIBHI (R164). -/
def execNibhi (b0 : Byte) (s : State) : Host.Outcome State Fault Refusal := .next (s.answer (.nibble (nibhi b0)))

/-- BITT (R165). -/
def execBitt (b0 m : Byte) (s : State) : Host.Outcome State Fault Refusal := .next (s.answer (.bit (bitt b0 m)))

/-- ENUM (R166). -/
def execEnumLookup (v : Byte) (n : Nat) (s : State) : Host.Outcome State Fault Refusal :=
  .next (s.answer (.enumerated (enumLookup v n)))

end Sys2Proof.Machine
end

