-- ==== Sys2Proof/Machine/RegisterMap.lean ====
section
/-! DEFINITION. The Register Map (R180): one constant record of named entries, each with its byte offset, its width and its decoding rule,
RUN_OFF the only free member (R28, R195); and the ten field operations (R181 to R190), which read all of these from the record, so that
another protocol variant is another record. -/

namespace Sys2Proof.Machine

/-- The bitfield rule of the config byte: the mask of each named bit (R84, R180). -/
structure MaskRule where
  safetyTimer : Byte
  capacityCutoff : Byte
  keyBeep : Byte
  buzzer : Byte
  deriving DecidableEq, Repr

/-- The part of the byte an enum field takes as its index (R180). -/
inductive BytePart where
  | whole
  | lowNibble
  | highNibble
  deriving DecidableEq, Repr

/-- The enum-lookup rule: the part of the byte that is the index, and the label table (R85 to R87, R180). -/
structure EnumRule where
  part : BytePart
  labels : List String
  deriving DecidableEq, Repr

/-- How the two bytes of a number are read (R88). -/
inductive PairDecoding where
  | twoByteFixedFloat
  | twoByteScaledInt
  deriving DecidableEq, Repr

/-- The rule of a two-byte number, with the unit the source names (R180). -/
structure NumberRule where
  decoding : PairDecoding
  unit : String
  deriving DecidableEq, Repr

/-- One entry of the Register Map: "{name, byte offset, width (1 or 2), decoding rule}" (R28). Its rule reads `w` bytes, and it lies inside
the payload: `offset + width <= 72` (R61). -/
structure MapEntry (w : Nat) (R : Type) where
  name : String
  offset : Nat
  width : Nat
  rule : R
  width_eq : width = w
  fits : offset + width ≤ Config.payloadLen
  deriving DecidableEq, Repr

/-- The Register Map: the ten entries in the order of their ids (R180). A table is no longer than the range its Message field has (R93;
log entry 15). -/
structure RegisterMap where
  cfg : MapEntry 1 MaskRule
  mode : MapEntry 1 EnumRule
  dir : MapEntry 1 EnumRule
  cyc : MapEntry 1 EnumRule
  run : MapEntry 1 EnumRule
  iout : MapEntry 2 NumberRule
  vout : MapEntry 2 NumberRule
  vin : MapEntry 2 NumberRule
  qout : MapEntry 2 NumberRule
  time : MapEntry 2 NumberRule
  mode_fits : mode.rule.labels.length ≤ 8
  dir_fits : dir.rule.labels.length ≤ 2
  cyc_fits : cyc.rule.labels.length ≤ 2
  run_fits : run.rule.labels.length ≤ 2
  deriving DecidableEq, Repr

/-- The Register Map of the one protocol variant in scope (R6, R180). -/
def registerMap (runOff : RunOff) : RegisterMap where
  cfg := { name := "config bits", offset := 0, width := 1, width_eq := rfl, fits := by decide
           rule := { safetyTimer := 0x02#8, capacityCutoff := 0x04#8, keyBeep := 0x08#8, buzzer := 0x10#8 } }
  mode := { name := "mode", offset := 22, width := 1, width_eq := rfl, fits := by decide
            rule := { part := .whole, labels := ["Config", "Li", "NiMH", "NiCd", "Pb", "Save", "Load"] } }
  dir := { name := "charge/cycle state, low nibble", offset := 23, width := 1, width_eq := rfl, fits := by decide
           rule := { part := .lowNibble, labels := ["Discharge", "Charge"] } }
  cyc := { name := "charge/cycle state, high nibble", offset := 23, width := 1, width_eq := rfl, fits := by decide
           rule := { part := .highNibble, labels := ["Single", "Cycle"] } }
  run := { name := "run state", offset := runOff.val, width := 1, width_eq := rfl, fits := runOff.isLt
           rule := { part := .whole, labels := ["Standby", "Running"] } }
  iout := { name := "Iout", offset := 32, width := 2, width_eq := rfl, fits := by decide
            rule := { decoding := .twoByteFixedFloat, unit := "amps" } }
  vout := { name := "Vout", offset := 34, width := 2, width_eq := rfl, fits := by decide
            rule := { decoding := .twoByteFixedFloat, unit := "volts" } }
  vin := { name := "Vin", offset := 40, width := 2, width_eq := rfl, fits := by decide
           rule := { decoding := .twoByteFixedFloat, unit := "volts" } }
  qout := { name := "charge-out", offset := 42, width := 2, width_eq := rfl, fits := by decide
            rule := { decoding := .twoByteScaledInt, unit := "mAh" } }
  time := { name := "charge-time", offset := 68, width := 2, width_eq := rfl, fits := by decide
            rule := { decoding := .twoByteScaledInt, unit := "minutes" } }
  mode_fits := by decide
  dir_fits := by decide
  cyc_fits := by decide
  run_fits := Nat.le_refl 2

/-- A RUN_OFF above 71 is refused before reset (R61). -/
def runOffOfNat (n : Nat) : Option RunOff := if h : n < 72 then some ⟨n, h⟩ else none

/-- `MemRead(offset, 1)` of a one-byte entry (R52). -/
def MapEntry.byte {R : Type} (e : MapEntry 1 R) (f : RawFrame) : Byte :=
  f.byteAt ⟨e.offset, by have h := e.fits; rw [e.width_eq] at h; exact h⟩

/-- `MemRead(offset, 2)` of a two-byte entry (R52). -/
def MapEntry.pair {R : Type} (e : MapEntry 2 R) (f : RawFrame) : Byte × Byte :=
  f.pairAt ⟨e.offset, by have h := e.fits; rw [e.width_eq] at h; exact Nat.le_of_succ_le_succ h⟩

/-- The part of a byte as an unsigned value: RAWB alone, or under NIBLO or NIBHI (R180). -/
def BytePart.value : BytePart → Byte → Byte
  | .whole, b => rawb b
  | .lowNibble, b => (niblo (rawb b)).setWidth 8
  | .highNibble, b => (nibhi (rawb b)).setWidth 8

/-- The index an enum field looks up, which is also the value its error records (R191). -/
def enumValue (e : MapEntry 1 EnumRule) (f : RawFrame) : Byte := e.rule.part.value (e.byte f)

/-- An enum field: ENUM of its index in its own table (R182 to R185). -/
def enumField (e : MapEntry 1 EnumRule) (f : RawFrame) : EnumResult := enumLookup (enumValue e f) e.rule.labels.length

/-- A two-byte number by its own decoding rule (R88, R186 to R190). -/
def numberField (e : MapEntry 2 NumberRule) (f : RawFrame) : U16 :=
  match e.rule.decoding with
  | .twoByteFixedFloat => fixf (e.pair f).1 (e.pair f).2
  | .twoByteScaledInt => scli (e.pair f).1 (e.pair f).2

/-- F.CFG: the four config bits as they stand in the byte (R181). -/
def fCfg (rm : RegisterMap) (f : RawFrame) : CfgBits :=
  let c := rawb (rm.cfg.byte f)
  { safetyTimer := bitt c rm.cfg.rule.safetyTimer
    capacityCutoff := bitt c rm.cfg.rule.capacityCutoff
    keyBeep := bitt c rm.cfg.rule.keyBeep
    buzzer := bitt c rm.cfg.rule.buzzer }

/-- F.MODE (R182). -/
def fMode (rm : RegisterMap) (f : RawFrame) : EnumResult := enumField rm.mode f

/-- F.DIR (R183). -/
def fDir (rm : RegisterMap) (f : RawFrame) : EnumResult := enumField rm.dir f

/-- F.CYC (R184). -/
def fCyc (rm : RegisterMap) (f : RawFrame) : EnumResult := enumField rm.cyc f

/-- F.RUN: the whole byte is the index (R185). -/
def fRun (rm : RegisterMap) (f : RawFrame) : EnumResult := enumField rm.run f

/-- F.IOUT: hundredths of an amp (R186). -/
def fIout (rm : RegisterMap) (f : RawFrame) : U16 := numberField rm.iout f

/-- F.VOUT: hundredths of a volt (R187). -/
def fVout (rm : RegisterMap) (f : RawFrame) : U16 := numberField rm.vout f

/-- F.VIN: hundredths of a volt (R188). -/
def fVin (rm : RegisterMap) (f : RawFrame) : U16 := numberField rm.vin f

/-- F.QOUT: mAh (R189). -/
def fQout (rm : RegisterMap) (f : RawFrame) : U16 := numberField rm.qout f

/-- F.TIME: minutes (R190). -/
def fTime (rm : RegisterMap) (f : RawFrame) : U16 := numberField rm.time f

/-- F.CFG of the frame in the buffer (R181). -/
def execFCfg (s : State) : Host.Outcome State Fault Refusal :=
  withFrame s fun f => .config (fCfg (registerMap s.runOff) f)

/-- F.MODE of the frame in the buffer (R182). -/
def execFMode (s : State) : Host.Outcome State Fault Refusal :=
  withFrame s fun f => .enumerated (fMode (registerMap s.runOff) f)

/-- F.DIR of the frame in the buffer (R183). -/
def execFDir (s : State) : Host.Outcome State Fault Refusal :=
  withFrame s fun f => .enumerated (fDir (registerMap s.runOff) f)

/-- F.CYC of the frame in the buffer (R184). -/
def execFCyc (s : State) : Host.Outcome State Fault Refusal :=
  withFrame s fun f => .enumerated (fCyc (registerMap s.runOff) f)

/-- F.RUN of the frame in the buffer (R185). -/
def execFRun (s : State) : Host.Outcome State Fault Refusal :=
  withFrame s fun f => .enumerated (fRun (registerMap s.runOff) f)

/-- F.IOUT of the frame in the buffer (R186). -/
def execFIout (s : State) : Host.Outcome State Fault Refusal :=
  withFrame s fun f => .word (fIout (registerMap s.runOff) f)

/-- F.VOUT of the frame in the buffer (R187). -/
def execFVout (s : State) : Host.Outcome State Fault Refusal :=
  withFrame s fun f => .word (fVout (registerMap s.runOff) f)

/-- F.VIN of the frame in the buffer (R188). -/
def execFVin (s : State) : Host.Outcome State Fault Refusal :=
  withFrame s fun f => .word (fVin (registerMap s.runOff) f)

/-- F.QOUT of the frame in the buffer (R189). -/
def execFQout (s : State) : Host.Outcome State Fault Refusal :=
  withFrame s fun f => .word (fQout (registerMap s.runOff) f)

/-- F.TIME of the frame in the buffer (R190). -/
def execFTime (s : State) : Host.Outcome State Fault Refusal :=
  withFrame s fun f => .word (fTime (registerMap s.runOff) f)

end Sys2Proof.Machine
end

