-- ==== Sys2Proof/Machine/Decoder.lean ====
section
/-! DEFINITION. The Message Decoder (R191): the checksum first, then MODE, DIR, CYC, RUN, then the whole Message or nothing. -/

namespace Sys2Proof.Machine

/-- The Message of R191 from the four indices; an index fits its field, since its table is no
longer than the field's range (R93). -/
def buildMessage (rm : RegisterMap) (f : RawFrame) (mode dir cyc run : Byte) : Message where
  cfgSafetyTimer := (fCfg rm f).safetyTimer
  cfgCapacityCutoff := (fCfg rm f).capacityCutoff
  cfgKeyBeep := (fCfg rm f).keyBeep
  cfgBuzzer := (fCfg rm f).buzzer
  mode := mode.setWidth 3
  dir := dir.setWidth 1
  cyc := cyc.setWidth 1
  run := run.setWidth 1
  ioutC := fIout rm f
  voutC := fVout rm f
  vinC := fVin rm f
  qout := fQout rm f
  time := fTime rm f

/-- DECODE (R191). -/
def decodeFrame (rm : RegisterMap) (f : RawFrame) : DecodeResult :=
  if ckvfy f then
    match fMode rm f, fDir rm f, fCyc rm f, fRun rm f with
    | .outOfRange, _, _, _ => .outOfRange .mode (enumValue rm.mode f)
    | .ok _, .outOfRange, _, _ => .outOfRange .dir (enumValue rm.dir f)
    | .ok _, .ok _, .outOfRange, _ => .outOfRange .cyc (enumValue rm.cyc f)
    | .ok _, .ok _, .ok _, .outOfRange => .outOfRange .run (enumValue rm.run f)
    | .ok mode, .ok dir, .ok cyc, .ok run => .ok (buildMessage rm f mode dir cyc run)
  else .checksumMismatch (cksum f) (ckext f)

/-- DECODE of the frame in the buffer (R191). -/
def execDecode (s : State) : Host.Outcome State Fault Refusal :=
  withFrame s fun f => .decoded (decodeFrame (registerMap s.runOff) f)

end Sys2Proof.Machine
end

