-- ==== Sys2Proof/Machine/Synchronizer.lean ====
section
/-! DEFINITION. The ten step operations of the Frame Synchronizer (40_synchronizer.md). -/

namespace Sys2Proof.Machine

/-- HALTED (R129): nothing changes and the event is not consumed; the identity step of a total model (D17, log entry 8). -/
def execHalted (s : State) : Host.Outcome State Fault Refusal :=
  whenSelected .halted s (.next (s.emit .none))

/-- FATAL (R128). -/
def execFatal (s : State) : Host.Outcome State Fault Refusal :=
  whenSelected .fatal s (.next (s.consume.raise .streamFatal))

/-- IDLEFAIL (R126). -/
def execIdleFail (s : State) : Host.Outcome State Fault Refusal :=
  whenSelected .idleFail s (.next (s.consume.emit .none))

/-- ABORT.B (R127). -/
def execAbortB (s : State) : Host.Outcome State Fault Refusal :=
  whenSelected .abortB s (.next (s.consume.raise (.readFailBody s.cnt)))

/-- ABORT.E (R127). -/
def execAbortE (s : State) : Host.Outcome State Fault Refusal :=
  whenSelected .abortE s (.next (s.consume.raise .readFailEnd))

/-- START (R122): all cells of `buf` are dead after it. -/
def execStart (s : State) : Host.Outcome State Fault Refusal :=
  whenSelected .start s (.next { s.consume.seek.emit .none with fsm := .readingBody })

/-- SKIP (R121). -/
def execSkip (b : Byte) (s : State) : Host.Outcome State Fault Refusal :=
  whenSelected (.skip b) s (.next (s.consume.emit .none))

/-- The position after a byte is stored at `cnt` (R123). -/
def State.advance (s : State) : State :=
  { s with fsm := if s.cnt = 73 then .checkingEnd else s.fsm, cnt := s.cnt + 1 }

/-- BODY (R123). -/
def execBody (b : Byte) (s : State) : Host.Outcome State Fault Refusal :=
  whenSelected (.body b) s
    (match s.consume.memWrite s.cnt b with
      | some t => .next (t.advance.emit .none)
      | none => .fault .noSuchCell)

/-- The end of a candidate by what DECODE returned (R124). -/
def State.finish (s : State) (raw : RawFrame) : DecodeResult → State
  | .ok msg => s.seek.emit (.valid msg raw)
  | .checksumMismatch c t => s.raise (.checksumMismatch c t raw)
  | .outOfRange fid v => s.raise (.outOfRange fid v raw)

/-- END (R124). -/
def execEndFrame (s : State) : Host.Outcome State Fault Refusal :=
  whenSelected .endFrame s
    (match s.frame? with
      | some raw => .next (s.consume.finish raw (decodeFrame (registerMap s.runOff) raw))
      | none => .fault .deadCell)

/-- ENDMISS (R125): the byte is consumed and is not taken as a start sentinel. -/
def execEndMiss (b : Byte) (s : State) : Host.Outcome State Fault Refusal :=
  whenSelected (.endMiss b) s
    (match s.frame? with
      | some raw => .next (s.consume.raise (.endMismatch b raw))
      | none => .fault .deadCell)

end Sys2Proof.Machine
end

