-- ==== Sys2Proof/Machine/Dispatch.lean ====
section
/-! DEFINITION. One arm for each operation. -/

namespace Sys2Proof.Machine

def exec (i : Instr) (s : State) : Host.Outcome State Fault Refusal :=
  match i with
  | .halted => Sys2Proof.Machine.execHalted s
  | .fatal => Sys2Proof.Machine.execFatal s
  | .idleFail => Sys2Proof.Machine.execIdleFail s
  | .abortB => Sys2Proof.Machine.execAbortB s
  | .abortE => Sys2Proof.Machine.execAbortE s
  | .start => Sys2Proof.Machine.execStart s
  | .skip b => Sys2Proof.Machine.execSkip b s
  | .body b => Sys2Proof.Machine.execBody b s
  | .endFrame => Sys2Proof.Machine.execEndFrame s
  | .endMiss b => Sys2Proof.Machine.execEndMiss b s
  | .cksum => Sys2Proof.Machine.execCksum s
  | .ckext => Sys2Proof.Machine.execCkext s
  | .ckvfy => Sys2Proof.Machine.execCkvfy s
  | .rawb b0 => Sys2Proof.Machine.execRawb b0 s
  | .fixf b0 b1 => Sys2Proof.Machine.execFixf b0 b1 s
  | .scli b0 b1 => Sys2Proof.Machine.execScli b0 b1 s
  | .niblo b0 => Sys2Proof.Machine.execNiblo b0 s
  | .nibhi b0 => Sys2Proof.Machine.execNibhi b0 s
  | .bitt b0 m => Sys2Proof.Machine.execBitt b0 m s
  | .enumLookup v n => Sys2Proof.Machine.execEnumLookup v n s
  | .fCfg => Sys2Proof.Machine.execFCfg s
  | .fMode => Sys2Proof.Machine.execFMode s
  | .fDir => Sys2Proof.Machine.execFDir s
  | .fCyc => Sys2Proof.Machine.execFCyc s
  | .fRun => Sys2Proof.Machine.execFRun s
  | .fIout => Sys2Proof.Machine.execFIout s
  | .fVout => Sys2Proof.Machine.execFVout s
  | .fVin => Sys2Proof.Machine.execFVin s
  | .fQout => Sys2Proof.Machine.execFQout s
  | .fTime => Sys2Proof.Machine.execFTime s
  | .decode => Sys2Proof.Machine.execDecode s

end Sys2Proof.Machine
end

