-- ==== Sys2Proof/Machine/Fetch.lean ====
section
/-! DEFINITION. Forming the selector word of a step (R90, R120), waiting for an event (R50), and placing a word so that the next step
forms it (log entry 9). -/

namespace Sys2Proof.Machine

/-- The selector word of this step, if an event is offered (R120). -/
def State.selector (s : State) : Option (BitVec 13) :=
  s.offered.map fun ev => selectorWord s.halted s.fsm ev

/-- No event is offered: the block waits, and waiting changes no state (R50, R226); the port carries no event, since no step emitted
one (R255). -/
def State.wait (s : State) : State := s.emit .none

/-- A candidate of 74 zero bytes. -/
def zeroCells : Memory := (List.range Config.frameLen).map fun a => (a, 0#8)

/-- Put `fsm` at `f`; if it stood elsewhere, `cnt` and `buf` are what R24 gives `f`: nothing stored, or a whole candidate. -/
def State.placeFsm (s : State) (f : Fsm) : State :=
  if s.fsm = f then s
  else match f with
    | .seekingStart => s.seek
    | .readingBody => { s.seek with fsm := .readingBody }
    | .checkingEnd => { s with fsm := .checkingEnd, cnt := Config.frameLen, buf := zeroCells }

/-- Set `halted`, `fsm` and the event offered next as the selector word says; a word that is no encoding places nothing. -/
def State.placeSelector (s : State) (w : BitVec 13) : State :=
  match fsmOfCode (selectorFsm w), evOfCode (selectorEv w) (selectorByte w) with
  | some f, some ev => { s.placeFsm f with halted := selectorHalted w, input := ev :: s.input }
  | _, _ => s

/-- Place a word of spec/opcode_table.json: a selector word as itself; a field id as a whole candidate whose end sentinel is offered
next, since the field operations are evaluated inside END and no step selects them (R91). -/
def State.placeBytes (s : State) : List Byte → State
  | [_] => s.placeSelector 0x087D#13
  | [lo, hi] => s.placeSelector (hi.extractLsb' 0 5 ++ lo)
  | _ => s

end Sys2Proof.Machine
end

