-- ==== Sys2Proof/Machine/Step.lean ====
section
/-! DEFINITION. One step (R120): form the selector word from `halted`, `fsm` and the event offered, select the operation, perform it.
With no event offered the block waits (R50). -/

namespace Sys2Proof.Machine

/-- One step of the block. -/
def step (s : State) : Host.Outcome State Fault Refusal :=
  match s.selector with
  | none => .next s.wait
  | some w =>
    match decodeSelector w with
    | .ok i => exec i s
    | .error _ => .refused .reservedSelector

/-- `s` with the word of spec/opcode_table.json placed where the next step selects its operation (log entry 9). -/
def State.withFetchWord (s : State) (nbits w : Nat) : State := s.placeBytes (tableBytes nbits w)

end Sys2Proof.Machine
end

