-- ==== Sys2Proof/Safety.lean ====
section
/-! DEFINITION. The invariant of R24, runs over a finite input (R136), the transition table (R130), and the words claims use. -/

namespace Sys2Proof.Machine

/-- Exactly the cells below `cnt` are live, each with its byte (R23, R27). -/
def State.LiveCells (s : State) : Prop := s.buf.map Prod.fst = List.range s.cnt

/-- The invariants of R24, and the live cells of R27. -/
structure State.Inv (s : State) : Prop where
  seeking : s.fsm = .seekingStart → s.cnt = 0
  reading : s.fsm = .readingBody → s.cnt ≤ 73
  checking : s.fsm = .checkingEnd → s.cnt = 74
  halted : s.halted = true → s.fsm = .seekingStart ∧ s.cnt = 0
  live : s.LiveCells

/-- The 74 cells of the buffer are live and hold the RawFrame `f`. -/
def State.HoldsFrame (s : State) (f : RawFrame) : Prop := ∀ i : Fin 74, s.cell i.val = some (f.cell i)

/-- The byte `i` of a RawFrame as a number. -/
def RawFrame.num (f : RawFrame) (i : Fin 74) : Nat := (f.cell i).toNat

/-- The exact sum of the 72 payload bytes as unsigned integers (R153). -/
def RawFrame.payloadSum (f : RawFrame) : Nat := Finset.univ.sum fun i : Fin 72 => f.num ⟨i.val, by omega⟩

/-- The checksum the trailer carries, as a number: the low nibble of cell 72 is the high nibble (R55, R83). -/
def RawFrame.transmitted (f : RawFrame) : Nat := f.num 72 % 16 * 16 + f.num 73 % 16

/-- The value of the run-state byte, at the state's own RUN_OFF (R87). -/
def RawFrame.runNum (f : RawFrame) (r : RunOff) : Nat := f.num ⟨r.val, by omega⟩

/-- The two bytes of a field from cell `i` on, radix 100 (R53, R88). -/
def RawFrame.hundreds (f : RawFrame) (i : Fin 73) : Nat := f.num ⟨i.val, by omega⟩ * 100 + f.num ⟨i.val + 1, by omega⟩

/-- The output event END makes of what DECODE returned (R124). -/
def verdictOf (f : RawFrame) : DecodeResult → OutEvent
  | .ok msg => .valid msg f
  | .checksumMismatch c t => .invalid (.checksumMismatch c t f)
  | .outOfRange fid v => .invalid (.outOfRange fid v f)

/-- The wire frame of R80 as input events: the start sentinel, the 74 bytes, the end sentinel. -/
def wireFrame (f : RawFrame) : List InEvent :=
  .byte startSentinel :: (f.bytes.map InEvent.byte ++ [.byte endSentinel])

/-- At most `k` steps of a run (R136): the output event of every step in order, None included, and the final state. A run ends when the
events are used up or `halted` is set. -/
def runSteps : Nat → State → List OutEvent × State
  | 0, s => ([], s)
  | k + 1, s =>
    if s.halted || s.input.isEmpty then ([], s)
    else match step s with
      | .next t => (t.out :: (runSteps k t).1, (runSteps k t).2)
      | .fault _ => ([], s)
      | .refused _ => ([], s)

/-- The events that belong to the result of a run: all but None (R136). -/
def emitted (es : List OutEvent) : List OutEvent := es.filter fun e => e != .none

/-- The run over all events offered: the list of output events other than None, in order, and the final state (R136). -/
def run (s : State) : List OutEvent × State :=
  (emitted (runSteps s.input.length s).1, (runSteps s.input.length s).2)

/-- The transition table of R130 on (`fsm`, `cnt`, `halted`), for a block that is not halted. -/
def transition (fsm : Fsm) (cnt : Nat) : InEvent → Fsm × Nat × Bool
  | .fatal => (.seekingStart, 0, true)
  | .rdFail => (.seekingStart, 0, false)
  | .byte b =>
    match fsm with
    | .seekingStart => if b = startSentinel then (.readingBody, 0, false) else (.seekingStart, 0, false)
    | .readingBody => if cnt = 73 then (.checkingEnd, 74, false) else (.readingBody, cnt + 1, false)
    | .checkingEnd => (.seekingStart, 0, false)

/-- An event that is noise while seeking: a byte that is no start sentinel, or a failed read (R131). -/
def isNoise : InEvent → Bool
  | .byte b => b != startSentinel
  | .rdFail => true
  | .fatal => false

/-- The operations the selector word selects (R91); the others are functions. -/
def isStepOp (i : Instr) : Bool := i.format == .step

/-- The payload cells some field operation reads, RUN_OFF apart (R59). -/
def assignedCells : List Nat := [0, 22, 23, 32, 33, 34, 35, 40, 41, 42, 43, 68, 69]

/-- The payload cells a Register Map names: every entry's `width` cells from its `offset` on (R28, R59). -/
def RegisterMap.cells (rm : RegisterMap) : List Nat :=
  List.range' rm.cfg.offset rm.cfg.width ++ List.range' rm.mode.offset rm.mode.width ++ List.range' rm.dir.offset rm.dir.width ++
  List.range' rm.cyc.offset rm.cyc.width ++ List.range' rm.run.offset rm.run.width ++ List.range' rm.iout.offset rm.iout.width ++
  List.range' rm.vout.offset rm.vout.width ++ List.range' rm.vin.offset rm.vin.width ++ List.range' rm.qout.offset rm.qout.width ++
  List.range' rm.time.offset rm.time.width

/-- The payload of a Message by the inverse of R181 to R190, zero elsewhere (R194), with the default RUN_OFF. -/
def payloadOf (m : Message) : List Byte :=
  (List.range 72).map fun i =>
    if i = 0 then (m.cfgSafetyTimer.setWidth 8 <<< 1) ||| (m.cfgCapacityCutoff.setWidth 8 <<< 2) |||
      (m.cfgKeyBeep.setWidth 8 <<< 3) ||| (m.cfgBuzzer.setWidth 8 <<< 4)
    else if i = 7 then m.run.setWidth 8
    else if i = 22 then m.mode.setWidth 8
    else if i = 23 then (m.cyc.setWidth 8 <<< 4) ||| m.dir.setWidth 8
    else if i = 32 then BitVec.ofNat 8 (m.ioutC.toNat / 100)
    else if i = 33 then BitVec.ofNat 8 (m.ioutC.toNat % 100)
    else if i = 34 then BitVec.ofNat 8 (m.voutC.toNat / 100)
    else if i = 35 then BitVec.ofNat 8 (m.voutC.toNat % 100)
    else if i = 40 then BitVec.ofNat 8 (m.vinC.toNat / 100)
    else if i = 41 then BitVec.ofNat 8 (m.vinC.toNat % 100)
    else if i = 42 then BitVec.ofNat 8 (m.qout.toNat / 100)
    else if i = 43 then BitVec.ofNat 8 (m.qout.toNat % 100)
    else if i = 68 then BitVec.ofNat 8 (m.time.toNat / 100)
    else if i = 69 then BitVec.ofNat 8 (m.time.toNat % 100)
    else 0#8

/-- The trailer that encodes the checksum of a payload: the high nibble, then the low nibble (R55, R83). -/
def trailerOf (payload : List Byte) : List Byte :=
  let c := (payload.map BitVec.toNat).sum % 256
  [BitVec.ofNat 8 (c / 16), BitVec.ofNat 8 (c % 16)]

/-- The field values of R194 are within range: `mode` 0..6, each number 0..25599. -/
def Message.inRange (m : Message) : Bool :=
  decide (m.mode.toNat ≤ 6) && decide (m.ioutC.toNat ≤ 25599) && decide (m.voutC.toNat ≤ 25599) &&
    decide (m.vinC.toNat ≤ 25599) && decide (m.qout.toNat ≤ 25599) && decide (m.time.toNat ≤ 25599)

end Sys2Proof.Machine
end

