-- ==== Sys2Proof/Certificates/Slice0/Obligations.lean ====
section
/-! DEFINITION. The statements for the provers. Where a rule of the spec is marked there as the spec's own decision (`D<n>`) or as derived,
the docstring names that, and the statement's basis is 'derived'. -/

open Sys2Proof Sys2Proof.Machine

/-! ## Encoding -/

/-- Words of 95_test_vectors.md section 2 and the field ids of the operation table decode to their operations; the codes are the spec's own (D6). -/
def Obligations.TabledWordsDecode : Prop :=
  decodeTableWord 16 0x0041 = some (.skip 0x41#8) ∧ decodeTableWord 16 0x007B = some .start ∧
  decodeTableWord 16 0x047B = some (.body 0x7B#8) ∧ decodeTableWord 16 0x087D = some .endFrame ∧
  decodeTableWord 16 0x087B = some (.endMiss 0x7B#8) ∧ decodeTableWord 16 0x0100 = some .idleFail ∧
  decodeTableWord 16 0x0500 = some .abortB ∧ decodeTableWord 16 0x0900 = some .abortE ∧
  decodeTableWord 16 0x0600 = some .fatal ∧ decodeTableWord 16 0x107B = some .halted ∧
  decodeTableWord 8 0b0100 = some .fRun ∧ decodeTableWord 8 0b1001 = some .fTime

/-- Decode and encode agree: for every well-formed operation that has an encoding, with every operand (R90, R91, R95: codes of D6; the byte
layout is the model's, log entry 5). -/
def Obligations.DecodeOfEncode : Prop :=
  ∀ (i : Instr) (bs : List Byte), i.wf = true → encode i = some bs → decodeBytes bs = .ok i

/-- The decoder picks the first row of the operation map whose mask and match fit, and refuses exactly the words whose state or event code
is 11 (R91, R96(f), D6; that such a word is refused before the rows are tried is log entry 6). -/
def Obligations.SelectorMapFirstMatch : Prop :=
  (∀ (w : BitVec 13) (i : Instr), decodeSelector w = .ok i → firstRow w = some i.mnemonic) ∧
  (∀ w : BitVec 13, (∃ i, decodeSelector w = .ok i) ↔ selectorFsm w ≠ 0b11#2 ∧ selectorEv w ≠ 0b11#2)

/-- Whatever the decoder accepts is a well-formed operation with an encoding of that size: two bytes for a step operation, one for a field
operation, none for a function (R91, R95; the byte layout is log entry 5). -/
def Obligations.DecoderAcceptsOnlyEncodings : Prop :=
  ∀ (bs : List Byte) (i : Instr), decodeBytes bs = .ok i →
    i.wf = true ∧ (i.format = .step ∧ bs.length = 2 ∨ i.format = .field ∧ bs.length = 1)

/-! ## The step operations -/

/-- R121: SKIP discards any byte but 0x7B, and a stream of such bytes brings out nothing. -/
def Obligations.SkipDiscardsByte : Prop :=
  (∀ (s : State) (b : Byte) (rest : List InEvent), s.halted = false → s.fsm = .seekingStart →
    s.input = .byte b :: rest → b ≠ 0x7B#8 → exec (.skip b) s = .next { s with input := rest, out := .none }) ∧
  (∀ (s : State) (k : Nat), s.halted = false → s.fsm = .seekingStart →
    (∀ ev ∈ s.input, ∃ b, ev = .byte b ∧ b ≠ 0x7B#8) → ∀ e ∈ (runSteps k s).1, e = .none)

/-- R122: START opens a candidate with no byte stored; every cell is dead. -/
def Obligations.StartOpensCandidate : Prop :=
  ∀ (s : State) (rest : List InEvent), s.halted = false → s.fsm = .seekingStart → s.input = .byte 0x7B#8 :: rest →
    ∃ t, exec .start s = .next t ∧ (∀ a, t.cell a = none) ∧
      t = { s with fsm := .readingBody, cnt := 0, buf := t.buf, input := rest, out := .none }

/-- BODY stores any byte at cell `cnt`, leaves every other address as it was, and counts (R123, which rests on D20). -/
def Obligations.BodyStoresByte : Prop :=
  ∀ (s : State) (b : Byte) (rest : List InEvent), s.halted = false → s.fsm = .readingBody → s.cnt ≤ 73 →
    s.input = .byte b :: rest →
    ∃ t, exec (.body b) s = .next t ∧ t.cell s.cnt = some b ∧
      (∀ a, a ≠ s.cnt → Memory.read t.buf a = Memory.read s.buf a) ∧
      t = { s with
        fsm := if s.cnt = 73 then .checkingEnd else .readingBody, cnt := s.cnt + 1, buf := t.buf, input := rest, out := .none }

/-- END emits what DECODE makes of the 74 buffered bytes and returns to seeking (R124, which rests on D2). -/
def Obligations.EndEmitsVerdict : Prop :=
  ∀ (s : State) (f : RawFrame) (rest : List InEvent), s.halted = false → s.fsm = .checkingEnd → s.HoldsFrame f →
    s.input = .byte 0x7D#8 :: rest →
    ∃ t, exec .endFrame s = .next t ∧ (∀ a, t.cell a = none) ∧
      t.out = verdictOf f (decodeFrame (registerMap s.runOff) f) ∧
      t = { s with fsm := .seekingStart, cnt := 0, buf := t.buf, input := rest, out := t.out }

/-- R125: ENDMISS reports the byte and the 74 buffered bytes and returns to seeking; the byte, 0x7B too, is consumed and opens nothing. -/
def Obligations.EndMissDiscardsCandidate : Prop :=
  ∀ (s : State) (f : RawFrame) (b : Byte) (rest : List InEvent), s.halted = false → s.fsm = .checkingEnd → s.HoldsFrame f →
    s.input = .byte b :: rest → b ≠ 0x7D#8 →
    ∃ t, exec (.endMiss b) s = .next t ∧ (∀ a, t.cell a = none) ∧
      t = { s with
        fsm := .seekingStart, cnt := 0, buf := t.buf, input := rest, out := .invalid (.endMismatch b f) }

/-- IDLEFAIL: a failed read while seeking changes nothing and reports nothing (R126, which rests on D16). -/
def Obligations.IdleFailKeepsSeeking : Prop :=
  ∀ (s : State) (rest : List InEvent), s.halted = false → s.fsm = .seekingStart → s.input = .rdFail :: rest →
    exec .idleFail s = .next { s with input := rest, out := .none }

/-- ABORT.B and ABORT.E: a failed read discards the candidate and reports FramingError with its sub-cause (R127, which rests on D3 and D20). -/
def Obligations.AbortDiscardsCandidate : Prop :=
  (∀ (s : State) (rest : List InEvent), s.halted = false → s.fsm = .readingBody → s.input = .rdFail :: rest →
    ∃ t, exec .abortB s = .next t ∧ (∀ a, t.cell a = none) ∧
      t = { s with
        fsm := .seekingStart, cnt := 0, buf := t.buf, input := rest, out := .invalid (.readFailBody s.cnt) }) ∧
  (∀ (s : State) (rest : List InEvent), s.halted = false → s.fsm = .checkingEnd → s.input = .rdFail :: rest →
    ∃ t, exec .abortE s = .next t ∧ (∀ a, t.cell a = none) ∧
      t = { s with fsm := .seekingStart, cnt := 0, buf := t.buf, input := rest, out := .invalid .readFailEnd })

/-- FATAL, in any `fsm` and at any `cnt`: the candidate is lost, only StreamFatalError is reported, `halted` is set (R128, which rests on D17). -/
def Obligations.FatalHalts : Prop :=
  ∀ (s : State) (rest : List InEvent), s.halted = false → s.input = .fatal :: rest →
    ∃ t, exec .fatal s = .next t ∧ (∀ a, t.cell a = none) ∧
      t = { s with
        fsm := .seekingStart, cnt := 0, buf := t.buf, halted := true, input := rest, out := .invalid .streamFatal }

/-- HALTED: the state is unchanged, nothing is emitted and the event is not consumed. The identity step is the choice the spec leaves to a
total model (R129, D17; log entry 8). -/
def Obligations.HaltedIsIdentity : Prop :=
  ∀ (s : State) (ev : InEvent) (rest : List InEvent), s.halted = true → s.input = ev :: rest →
    exec .halted s = .next { s with out := .none }

/-- A step operation executed where the selector word selects another, or with no event offered, stops the model: R130 has no such
transition. The stop is the model's choice (log entry 10). -/
def Obligations.UnselectedOperationStops : Prop :=
  ∀ (s : State) (i : Instr), isStepOp i = true →
    (∀ ev rest, s.input = ev :: rest → selectOp s.halted s.fsm ev ≠ i) → exec i s = .fault .notEnabled

/-! ## The Checksum Unit -/

/-- R150: CKSUM is the sum of the 72 payload bytes modulo 256. -/
def Obligations.CksumIsSumMod256 : Prop :=
  ∀ (s : State) (f : RawFrame), s.HoldsFrame f →
    ∃ c : Byte, exec .cksum s = .next { s with fout := .byte c } ∧ c.toNat = f.payloadSum % 256

/-- CKEXT is the two low nibbles of the trailer (R151, whose reading of cell 72 is D7). -/
def Obligations.CkextIsTrailerNibbles : Prop :=
  ∀ (s : State) (f : RawFrame), s.HoldsFrame f →
    ∃ t : Byte, exec .ckext s = .next { s with fout := .byte t } ∧ t.toNat = f.transmitted

/-- R152: CKVFY compares what CKSUM and CKEXT give. -/
def Obligations.CkvfyComparesBoth : Prop :=
  ∀ (s : State) (f : RawFrame), s.HoldsFrame f →
    ∃ (ok : Bool) (c t : Byte), exec .ckvfy s = .next { s with fout := .verdict ok } ∧
      exec .cksum s = .next { s with fout := .byte c } ∧ exec .ckext s = .next { s with fout := .byte t } ∧
      (ok = true ↔ c = t)

/-- The verdict in numbers: true exactly for the trailer that encodes the sum modulo 256 (R152; the nibble packing is D7). -/
def Obligations.VerifyIffTrailerEncodesSum : Prop :=
  ∀ f : RawFrame, ckvfy f = true ↔ f.payloadSum % 256 = f.transmitted

/-- The running form: adding the 72 payload bytes one by one in 8 bits, dropping carries, gives CKSUM (R155, derived there). -/
def Obligations.RunningSumEqualsCksum : Prop :=
  ∀ f : RawFrame, f.payload.foldl (fun acc b => acc + b) 0#8 = cksum f

/-- What the check cannot see: a reordering of the payload, and the high nibbles of the trailer (R156, derived there). -/
def Obligations.ChecksumBlindSpots : Prop :=
  (∀ f g : RawFrame, f.payload.Perm g.payload → cksum f = cksum g) ∧
  (∀ f g : RawFrame, (f.cell 72).extractLsb' 0 4 = (g.cell 72).extractLsb' 0 4 →
    (f.cell 73).extractLsb' 0 4 = (g.cell 73).extractLsb' 0 4 → ckext f = ckext g)

/-! ## The Field Codec primitives -/

/-- R160, R163, R164: the byte itself, its low nibble and its high nibble. -/
def Obligations.ByteAndNibbles : Prop :=
  ∀ (s : State) (b : Byte), exec (.rawb b) s = .next { s with fout := .byte b } ∧
    (∃ lo : Nibble, exec (.niblo b) s = .next { s with fout := .nibble lo } ∧ lo.toNat = b.toNat % 16) ∧
    (∃ hi : Nibble, exec (.nibhi b) s = .next { s with fout := .nibble hi } ∧ hi.toNat = b.toNat / 16)

/-- R165: BITT tests the one bit its mask has set. -/
def Obligations.BittTestsOneBit : Prop :=
  ∀ (s : State) (b : Byte) (k : Nat), k < 8 →
    ∃ v : Bit, exec (.bitt b (1#8 <<< k)) s = .next { s with fout := .bit v } ∧ (v = 1#1 ↔ b.getLsbD k = true)

/-- R162: SCLI is `b0*100 + b1` with no overflow, `b1` of 100 or more included, and FIXF computes the same integer. -/
def Obligations.ScliIsRadix100 : Prop :=
  ∀ (s : State) (b0 b1 : Byte), ∃ v : U16, exec (.scli b0 b1) s = .next { s with fout := .word v } ∧
    v.toNat = b0.toNat * 100 + b1.toNat ∧ v.toNat ≤ 25755 ∧ exec (.fixf b0 b1) s = .next { s with fout := .word v }

/-- FIXF is `b0*100 + b1` hundredths, `b1` of 100 or more included; below 100 it is injective (R161, which rests on D10; R194). -/
def Obligations.FixfIsExactHundredths : Prop :=
  (∀ (s : State) (b0 b1 : Byte), ∃ v : U16, exec (.fixf b0 b1) s = .next { s with fout := .word v } ∧
    v.toNat = b0.toNat * 100 + b1.toNat) ∧
  (∀ b0 b1 c0 c1 : Byte, b1.toNat ≤ 99 → c1.toNat ≤ 99 → fixf b0 b1 = fixf c0 c1 → b0 = c0 ∧ b1 = c1)

/-- R166: ENUM answers the index below the length and OutOfRange from the length on; a field out of range makes DECODE answer no Message. -/
def Obligations.EnumRejectsFromLengthOn : Prop :=
  (∀ (s : State) (v : Byte) (n : Nat),
    (v.toNat < n → exec (.enumLookup v n) s = .next { s with fout := .enumerated (.ok v) }) ∧
    (n ≤ v.toNat → exec (.enumLookup v n) s = .next { s with fout := .enumerated .outOfRange })) ∧
  (∀ (rm : RegisterMap) (f : RawFrame),
    (fMode rm f = .outOfRange ∨ fDir rm f = .outOfRange ∨ fCyc rm f = .outOfRange ∨ fRun rm f = .outOfRange) →
    ∀ m, decodeFrame rm f ≠ .ok m)

/-! ## The field operations -/

/-- F.CFG answers bits 1 to 4 of cell 0 as they stand (R181, which rests on D11). -/
def Obligations.ConfigBitsAsTheyStand : Prop :=
  ∀ (s : State) (f : RawFrame), s.HoldsFrame f →
    ∃ c : CfgBits, exec .fCfg s = .next { s with fout := .config c } ∧
      (c.safetyTimer = 1#1 ↔ (f.cell 0).getLsbD 1 = true) ∧ (c.capacityCutoff = 1#1 ↔ (f.cell 0).getLsbD 2 = true) ∧
      (c.keyBeep = 1#1 ↔ (f.cell 0).getLsbD 3 = true) ∧ (c.buzzer = 1#1 ↔ (f.cell 0).getLsbD 4 = true)

/-- R182: F.MODE answers cell 22 below 7 and OutOfRange from 7 on; DECODE of a frame with a good checksum then names field 1 and the byte. -/
def Obligations.ModeIsEnumOfSeven : Prop :=
  (∀ (s : State) (f : RawFrame), s.HoldsFrame f →
    exec .fMode s = .next { s with
      fout := .enumerated (if f.num 22 ≤ 6 then .ok (f.cell 22) else .outOfRange) }) ∧
  (∀ (r : RunOff) (f : RawFrame), ckvfy f = true → 7 ≤ f.num 22 →
    decodeFrame (registerMap r) f = .outOfRange .mode (f.cell 22))

/-- F.DIR and F.CYC answer the low and the high nibble of cell 23 if 0 or 1, and OutOfRange otherwise (R183, R184, which rest on D9). -/
def Obligations.DirectionAndCycleNibbles : Prop :=
  ∀ (s : State) (f : RawFrame), s.HoldsFrame f →
    (∃ r, exec .fDir s = .next { s with fout := .enumerated r } ∧
      (f.num 23 % 16 ≤ 1 → ∃ v : Byte, r = .ok v ∧ v.toNat = f.num 23 % 16) ∧
      (2 ≤ f.num 23 % 16 → r = .outOfRange)) ∧
    (∃ r, exec .fCyc s = .next { s with fout := .enumerated r } ∧
      (f.num 23 / 16 ≤ 1 → ∃ v : Byte, r = .ok v ∧ v.toNat = f.num 23 / 16) ∧
      (2 ≤ f.num 23 / 16 → r = .outOfRange))

/-- F.RUN answers the whole byte at RUN_OFF if 0 or 1, and OutOfRange otherwise, whatever RUN_OFF (R185, which rests on D8). -/
def Obligations.RunStateAtRunOff : Prop :=
  ∀ (s : State) (f : RawFrame), s.HoldsFrame f →
    ∃ r, exec .fRun s = .next { s with fout := .enumerated r } ∧
      (f.runNum s.runOff ≤ 1 → ∃ v : Byte, r = .ok v ∧ v.toNat = f.runNum s.runOff) ∧
      (2 ≤ f.runNum s.runOff → r = .outOfRange)

/-- R186, R187, R188: F.IOUT, F.VOUT and F.VIN answer the hundredths of cells 32, 34 and 40 and the next. -/
def Obligations.FixedFieldsInHundredths : Prop :=
  ∀ (s : State) (f : RawFrame), s.HoldsFrame f →
    (∃ v : U16, exec .fIout s = .next { s with fout := .word v } ∧ v.toNat = f.hundreds 32 ∧ v.toNat ≤ 25755) ∧
    (∃ v : U16, exec .fVout s = .next { s with fout := .word v } ∧ v.toNat = f.hundreds 34 ∧ v.toNat ≤ 25755) ∧
    (∃ v : U16, exec .fVin s = .next { s with fout := .word v } ∧ v.toNat = f.hundreds 40 ∧ v.toNat ≤ 25755)

/-- R189, R190: F.QOUT and F.TIME answer the scaled integers of cells 42 and 68 and the next. -/
def Obligations.ScaledFieldsInUnits : Prop :=
  ∀ (s : State) (f : RawFrame), s.HoldsFrame f →
    (∃ v : U16, exec .fQout s = .next { s with fout := .word v } ∧ v.toNat = f.hundreds 42 ∧ v.toNat ≤ 25755) ∧
    (∃ v : U16, exec .fTime s = .next { s with fout := .word v } ∧ v.toNat = f.hundreds 68 ∧ v.toNat ≤ 25755)

/-! ## The Message Decoder -/

/-- DECODE: the checksum first, then MODE, DIR, CYC, RUN, then all thirteen fields (R191; the order of the fields is D15, the reading of the
trailer D7, the nibble enums D9, the run state D8). -/
def Obligations.DecodeInOrder : Prop :=
  ∀ (s : State) (f : RawFrame), s.HoldsFrame f →
    ∃ r, exec .decode s = .next { s with fout := .decoded r } ∧
      (f.payloadSum % 256 ≠ f.transmitted →
        ∃ c t : Byte, r = .checksumMismatch c t ∧ c.toNat = f.payloadSum % 256 ∧ t.toNat = f.transmitted) ∧
      (f.payloadSum % 256 = f.transmitted → 7 ≤ f.num 22 → r = .outOfRange .mode (f.cell 22)) ∧
      (f.payloadSum % 256 = f.transmitted → f.num 22 ≤ 6 → 2 ≤ f.num 23 % 16 →
        ∃ v : Byte, r = .outOfRange .dir v ∧ v.toNat = f.num 23 % 16) ∧
      (f.payloadSum % 256 = f.transmitted → f.num 22 ≤ 6 → f.num 23 % 16 ≤ 1 → 2 ≤ f.num 23 / 16 →
        ∃ v : Byte, r = .outOfRange .cyc v ∧ v.toNat = f.num 23 / 16) ∧
      (f.payloadSum % 256 = f.transmitted → f.num 22 ≤ 6 → f.num 23 % 16 ≤ 1 → f.num 23 / 16 ≤ 1 → 2 ≤ f.runNum s.runOff →
        ∃ v : Byte, r = .outOfRange .run v ∧ v.toNat = f.runNum s.runOff) ∧
      (f.payloadSum % 256 = f.transmitted → f.num 22 ≤ 6 → f.num 23 % 16 ≤ 1 → f.num 23 / 16 ≤ 1 → f.runNum s.runOff ≤ 1 →
        ∃ m : Message, r = .ok m ∧
          (m.cfgSafetyTimer = 1#1 ↔ (f.cell 0).getLsbD 1 = true) ∧ (m.cfgCapacityCutoff = 1#1 ↔ (f.cell 0).getLsbD 2 = true) ∧
          (m.cfgKeyBeep = 1#1 ↔ (f.cell 0).getLsbD 3 = true) ∧ (m.cfgBuzzer = 1#1 ↔ (f.cell 0).getLsbD 4 = true) ∧
          m.mode.toNat = f.num 22 ∧ m.dir.toNat = f.num 23 % 16 ∧ m.cyc.toNat = f.num 23 / 16 ∧
          m.run.toNat = f.runNum s.runOff ∧ m.ioutC.toNat = f.hundreds 32 ∧ m.voutC.toNat = f.hundreds 34 ∧
          m.vinC.toNat = f.hundreds 40 ∧ m.qout.toNat = f.hundreds 42 ∧ m.time.toNat = f.hundreds 68)

/-- R192: DECODE reads nothing but the frame (and the constant RUN_OFF), writes nothing the block has, and answers the same when repeated. -/
def Obligations.DecodeIsPure : Prop :=
  ∀ (s t : State) (f : RawFrame), s.HoldsFrame f → t.HoldsFrame f → s.runOff = t.runOff →
    ∃ r, exec .decode s = .next { s with fout := .decoded r } ∧ exec .decode t = .next { t with fout := .decoded r } ∧
      exec .decode { s with fout := .decoded r } = .next { s with fout := .decoded r }

/-- Unassigned payload bytes do not affect the Message: two frames with a good checksum that agree on the cells of the Register Map decode
alike (R60, derived there). -/
def Obligations.UnassignedCellsIgnored : Prop :=
  ∀ (r : RunOff) (f g : RawFrame), ckvfy f = true → ckvfy g = true →
    (∀ i : Fin 72, i.val ∈ assignedCells ∨ i = r → f.byteAt i = g.byteAt i) →
    decodeFrame (registerMap r) f = decodeFrame (registerMap r) g

/-- Round trip: a frame built from field values in range, with the trailer of its checksum, decodes to exactly those values (R194, derived there;
with the default RUN_OFF). -/
def Obligations.DecodeOfBuiltFrame : Prop :=
  ∀ (m : Message) (f : RawFrame), m.inRange = true → f.bytes = payloadOf m ++ trailerOf (payloadOf m) →
    decodeFrame (registerMap 7) f = .ok m

/-- With RUN_OFF = 23 the only state bytes that decode are 0x00 and 0x01 (R196, derived there). -/
def Obligations.RunOffAt23 : Prop :=
  ∀ (f : RawFrame) (m : Message), decodeFrame (registerMap 23) f = .ok m →
    f.cell 23 = 0x00#8 ∧ m.dir = 0#1 ∧ m.cyc = 0#1 ∧ m.run = 0#1 ∨
    f.cell 23 = 0x01#8 ∧ m.dir = 1#1 ∧ m.cyc = 0#1 ∧ m.run = 1#1

/-! ## Frames -/

/-- A function changes nothing the block has: only the value it answers appears, on the model's own port (R154, R170, R192; log entry 3). -/
def Obligations.FunctionsChangeOnlyAnswer : Prop :=
  ∀ (i : Instr) (s t : State), isStepOp i = false → exec i s = .next t → ∃ r, t = { s with fout := r }

/-- A function of the frame stops while one of the 74 cells is dead, and reads none (R27, R52; the stop is the model's, log entry 11). -/
def Obligations.FrameFunctionsNeedLiveCells : Prop :=
  ∀ (s : State) (i : Instr), i ∈ ([.cksum, .ckext, .ckvfy, .fCfg, .fMode, .fDir, .fCyc, .fRun, .fIout, .fVout, .fVin, .fQout, .fTime,
      .decode] : List Instr) → (∃ a, a < 74 ∧ s.cell a = none) → exec i s = .fault .deadCell

/-- What each step operation leaves of the buffer: SKIP, IDLEFAIL and HALTED every byte; BODY every byte but cell `cnt`; the others, which open
or end a candidate, no live cell (R121 to R129, R26). -/
def Obligations.StepOperationsMemoryFrame : Prop :=
  ∀ (i : Instr) (s t : State), exec i s = .next t →
    (∀ b, i = .skip b ∨ i = .idleFail ∨ i = .halted → ∀ a, Memory.read t.buf a = Memory.read s.buf a) ∧
    (∀ b, i = .body b → ∀ a, a ≠ s.cnt → Memory.read t.buf a = Memory.read s.buf a) ∧
    (∀ b, i = .start ∨ i = .endFrame ∨ i = .endMiss b ∨ i = .abortB ∨ i = .abortE ∨ i = .fatal → ∀ a, t.cell a = none)

/-- Only BODY writes a cell, and only cell `cnt` (R26, R51). -/
def Obligations.OnlyBodyWritesCells : Prop :=
  ∀ (i : Instr) (s t : State) (a : Nat) (v : Byte), exec i s = .next t → t.cell a = some v →
    s.cell a = some v ∨ i = .body v ∧ a = s.cnt

/-- `halted` is set by FATAL alone and cleared by no operation (R25, which rests on D17). -/
def Obligations.HaltedOnlyByFatal : Prop :=
  ∀ (i : Instr) (s t : State), exec i s = .next t →
    (s.halted = true → t.halted = true) ∧ (s.halted = false → t.halted = true → i = .fatal)

/-- The Register Map never changes: no operation and no step writes RUN_OFF, its one free member (R28, R65). -/
def Obligations.RegisterMapImmutable : Prop :=
  (∀ (i : Instr) (s t : State), exec i s = .next t → registerMap t.runOff = registerMap s.runOff) ∧
  (∀ s t : State, step s = .next t → registerMap t.runOff = registerMap s.runOff)

/-- Every operation keeps the buffer's canonical form (log entry 12). -/
def Obligations.MemoryStaysCanonical : Prop :=
  ∀ (i : Instr) (s t : State), Memory.wf s.buf → exec i s = .next t → Memory.wf t.buf

/-! ## The step -/

/-- A step runs the operation decoded from the selector word of `halted`, `fsm` and the event offered, and adds nothing around it; with no event
offered the block waits (R120, which rests on D2; R50, R226; that the port then carries None is log entry 2). -/
def Obligations.StepRunsDecoded : Prop :=
  (∀ (s : State) (ev : InEvent) (rest : List InEvent) (i : Instr), s.input = ev :: rest →
    decodeSelector (selectorWord s.halted s.fsm ev) = .ok i → step s = exec i s) ∧
  (∀ s : State, s.input = [] → step s = .next { s with out := .none })

/-- R50: with no event the block waits and its state is unchanged; otherwise a step of a block that is not halted consumes exactly the event at the
head, and what it does does not depend on the events behind it. -/
def Obligations.OneEventInOrder : Prop :=
  (∀ s : State, s.input = [] → ∃ o, step s = .next { s with out := o }) ∧
  (∀ (s t : State) (ev : InEvent) (rest rest' : List InEvent), s.halted = false → s.input = ev :: rest → step s = .next t →
    t.input = rest ∧ step { s with input := ev :: rest' } = .next { t with input := rest' })

/-- After reset, with any RUN_OFF: seeking, nothing stored, every cell dead, not halted, output None; a host reset gives that in any state, keeps the
configuration and the events not yet delivered, and the block then decodes the next frame whatever came before (R34, R250, R251: D18; log entry 13). -/
def Obligations.ResetStartsAfresh : Prop :=
  (∀ r : RunOff, (State.resetWith r).fsm = .seekingStart ∧ (State.resetWith r).cnt = 0 ∧
    (∀ a, (State.resetWith r).cell a = none) ∧ (State.resetWith r).halted = false ∧ (State.resetWith r).out = .none) ∧
  (∀ s : State, s.hostReset = { State.resetWith s.runOff with input := s.input }) ∧
  (∀ (s : State) (f : RawFrame) (rest : List InEvent), s.input = wireFrame f ++ rest →
    (runSteps 76 s.hostReset).1 = List.replicate 75 .none ++ [verdictOf f (decodeFrame (registerMap s.runOff) f)])

/-- The invariants of R24 hold after reset, with any RUN_OFF (R24, derived there). -/
def Obligations.ResetMeetsInv : Prop := ∀ r : RunOff, (State.resetWith r).Inv

/-- Every step keeps the invariants of R24: from every state that meets them (R24, derived there). -/
def Obligations.StepKeepsInv : Prop := ∀ s t : State, s.Inv → step s = .next t → t.Inv

/-- From every state that meets the invariants a step answers a next state: no fault and no refusal (R22, R91, R130). -/
def Obligations.StepAlwaysAnswers : Prop := ∀ s : State, s.Inv → ∃ t, step s = .next t

/-- The transition table, every row, with its output (R130). Rows rest on decisions of the spec: the failed reads on D3, D16 and D20, BODY on
D20, END on D2, FATAL on D17; that a halted block takes the identity step and keeps the event is the model's choice among those D17 leaves
(log entry 8). -/
def Obligations.StepFollowsTransitionTable : Prop :=
  ∀ (s : State) (ev : InEvent) (rest : List InEvent), s.Inv → s.input = ev :: rest →
    ∃ t, step s = .next t ∧ (s.halted = true → t = { s with out := .none }) ∧
      (s.halted = false → (t.fsm, t.cnt, t.halted) = transition s.fsm s.cnt ev ∧ t.input = rest ∧
        (ev = .fatal → t.out = .invalid .streamFatal) ∧
        (ev = .rdFail → (s.fsm = .seekingStart → t.out = .none) ∧
          (s.fsm = .readingBody → t.out = .invalid (.readFailBody s.cnt)) ∧
          (s.fsm = .checkingEnd → t.out = .invalid .readFailEnd)) ∧
        (∀ b, ev = .byte b → (s.fsm ≠ .checkingEnd → t.out = .none) ∧
          (s.fsm = .checkingEnd → ∃ f, s.HoldsFrame f ∧
            (b = 0x7D#8 → t.out = verdictOf f (decodeFrame (registerMap s.runOff) f)) ∧
            (b ≠ 0x7D#8 → t.out = .invalid (.endMismatch b f)))))

/-- R218: a step that emits `Invalid` leaves the state after reset but for `halted`, which only StreamFatalError sets: nothing is saved, every cell
is dead, and only the event that revealed the error is consumed. (`fout` is no part of the block; log entry 3.) -/
def Obligations.ErrorLeavesResetState : Prop :=
  ∀ (s t : State) (e : ErrorEvent), step s = .next t → t.out = .invalid e →
    (∀ a, t.cell a = none) ∧
    t = { State.resetWith s.runOff with
      input := s.input.tail, out := .invalid e, fout := s.fout, halted := decide (e = .streamFatal) }

/-- A step emits `Valid` only in CHECKING_END on the end sentinel, for the 74 bytes in the buffer, whole, and leaves the state after reset
(R124, R193; R131, derived there). -/
def Obligations.ValidOnlyFromEnd : Prop :=
  ∀ (s t : State) (m : Message) (f : RawFrame), step s = .next t → t.out = .valid m f →
    s.halted = false ∧ s.fsm = .checkingEnd ∧ s.input.head? = some (.byte 0x7D#8) ∧ s.HoldsFrame f ∧
    decodeFrame (registerMap s.runOff) f = .ok m ∧
    t = { State.resetWith s.runOff with input := s.input.tail, out := .valid m f, fout := s.fout }

/-! ## Runs -/

/-- Noise: bytes other than the start sentinel and failed reads, met while seeking, leave the state as it is and bring out nothing (R131, derived
there). -/
def Obligations.NoiseIsRejected : Prop :=
  ∀ (s : State) (noise rest : List InEvent), s.halted = false → s.fsm = .seekingStart → noise ≠ [] →
    (∀ ev ∈ noise, isNoise ev = true) → s.input = noise ++ rest →
    runSteps noise.length s = (List.replicate noise.length .none, { s with input := rest, out := .none })

/-- What is guaranteed: from seeking, a start sentinel, any 74 bytes and an end byte bring out exactly one event, at the 76th step, the verdict of
DECODE or the end mismatch, and the block seeks again with nothing kept, whatever came before (R256, R257, R260, derived there). -/
def Obligations.CandidateTakes76Events : Prop :=
  ∀ (s : State) (f : RawFrame) (b : Byte) (rest : List InEvent), s.halted = false → s.fsm = .seekingStart →
    s.input = .byte 0x7B#8 :: (f.bytes.map InEvent.byte ++ .byte b :: rest) →
    ∃ v, (b = 0x7D#8 → v = verdictOf f (decodeFrame (registerMap s.runOff) f)) ∧
      (b ≠ 0x7D#8 → v = .invalid (.endMismatch b f)) ∧
      runSteps 76 s = (List.replicate 75 .none ++ [v], { s with cnt := 0, buf := [], input := rest, out := v })

/-- Soundness: no `Valid` comes out of any run from seeking unless the stream holds, in order and with nothing between, the start sentinel, those
74 bytes and the end sentinel, and they decode to that Message (R131, derived there). -/
def Obligations.ValidNeedsWholeFrame : Prop :=
  ∀ (s : State) (k : Nat) (m : Message) (f : RawFrame), s.fsm = .seekingStart → .valid m f ∈ (runSteps k s).1 →
    ∃ pre post, s.input = pre ++ wireFrame f ++ post ∧ decodeFrame (registerMap s.runOff) f = .ok m

/-- R133: after a failed candidate the stream goes on from where it stood, and what comes out does not depend on any byte of that candidate or on
the byte that failed it. -/
def Obligations.FailedCandidateLeavesNoTrace : Prop :=
  ∀ (s s' t t' : State) (e e' : ErrorEvent) (k : Nat), step s = .next t → step s' = .next t' →
    t.out = .invalid e → t'.out = .invalid e' → e ≠ .streamFatal → e' ≠ .streamFatal →
    s.runOff = s'.runOff → s.input.tail = s'.input.tail →
    t.fsm = .seekingStart ∧ t.input = s.input.tail ∧ (runSteps k t).1 = (runSteps k t').1

/-- Dead cells: two states that differ only in cells with index `>= cnt` bring out the same events in every run (R27, which rests on D19). -/
def Obligations.DeadCellsDoNotMatter : Prop :=
  ∀ (s s' : State) (k : Nat), s'.fsm = s.fsm → s'.cnt = s.cnt → s'.halted = s.halted → s'.runOff = s.runOff →
    s'.input = s.input → (∀ a, s'.cell a = s.cell a) → (runSteps k s').1 = (runSteps k s).1

/-- A run over a finite input ends with the events used up or with `halted` set (R136, which rests on D25). -/
def Obligations.RunEndsUsedUpOrHalted : Prop :=
  ∀ s : State, s.Inv → (run s).2.input = [] ∨ (run s).2.halted = true

/-- The result of a run (R136, which rests on D25): over noise, wire frames with noise between them and a candidate left open at the end, it is
the verdicts of the frames in their order and nothing else; the events are used up, and the open candidate has produced no output. -/
def Obligations.RunListsVerdicts : Prop :=
  ∀ (s : State) (frames : List (List InEvent × RawFrame)) (noise last : List InEvent), s.halted = false → s.fsm = .seekingStart →
    s.cnt = 0 → (∀ p ∈ frames, ∀ ev ∈ p.1, isNoise ev = true) → (∀ ev ∈ noise, isNoise ev = true) →
    (last = [] ∨ ∃ bs : List Byte, bs.length ≤ 74 ∧ last = .byte 0x7B#8 :: bs.map InEvent.byte) →
    s.input = frames.flatMap (fun p => p.1 ++ wireFrame p.2) ++ noise ++ last →
    (run s).1 = frames.map (fun p => verdictOf p.2 (decodeFrame (registerMap s.runOff) p.2)) ∧
    (run s).2.input = [] ∧ (run s).2.halted = false ∧ (run s).2.cnt = last.length - 1 ∧
    ((run s).2.fsm = .seekingStart ↔ last = [])

/-- The Register Map is all DECODE knows of the frame's layout: under any Register Map, two frames with a good checksum that agree on the cells
its entries name decode alike; and the map of the variant in scope names the assigned cells and the one at RUN_OFF (R59, R180 with D8, R195). -/
def Obligations.DecodeReadsMapCells : Prop :=
  (∀ (rm : RegisterMap) (f g : RawFrame), ckvfy f = true → ckvfy g = true →
    (∀ i : Fin 72, i.val ∈ rm.cells → f.byteAt i = g.byteAt i) → decodeFrame rm f = decodeFrame rm g) ∧
  (∀ (r : RunOff) (i : Nat), i ∈ (registerMap r).cells ↔ i ∈ assignedCells ∨ i = r.val)
end

