-- ==== Sys2Proof/Laws/State.lean ====
section
/-! SUPPORT. One lemma per field and state update, so that no later proof unfolds a record update. -/

namespace Sys2Proof.Machine

@[simp] theorem frameLen_eq : Config.frameLen = 74 := rfl
@[simp] theorem payloadLen_eq : Config.payloadLen = 72 := rfl

@[simp] theorem State.consume_fsm (s : State) : s.consume.fsm = s.fsm := rfl
@[simp] theorem State.consume_cnt (s : State) : s.consume.cnt = s.cnt := rfl
@[simp] theorem State.consume_buf (s : State) : s.consume.buf = s.buf := rfl
@[simp] theorem State.consume_halted (s : State) : s.consume.halted = s.halted := rfl
@[simp] theorem State.consume_runOff (s : State) : s.consume.runOff = s.runOff := rfl
@[simp] theorem State.consume_input (s : State) : s.consume.input = s.input.tail := rfl
@[simp] theorem State.consume_out (s : State) : s.consume.out = s.out := rfl
@[simp] theorem State.consume_fout (s : State) : s.consume.fout = s.fout := rfl

@[simp] theorem State.emit_fsm (s : State) (e : OutEvent) : (s.emit e).fsm = s.fsm := rfl
@[simp] theorem State.emit_cnt (s : State) (e : OutEvent) : (s.emit e).cnt = s.cnt := rfl
@[simp] theorem State.emit_buf (s : State) (e : OutEvent) : (s.emit e).buf = s.buf := rfl
@[simp] theorem State.emit_halted (s : State) (e : OutEvent) : (s.emit e).halted = s.halted := rfl
@[simp] theorem State.emit_runOff (s : State) (e : OutEvent) : (s.emit e).runOff = s.runOff := rfl
@[simp] theorem State.emit_input (s : State) (e : OutEvent) : (s.emit e).input = s.input := rfl
@[simp] theorem State.emit_out (s : State) (e : OutEvent) : (s.emit e).out = e := rfl
@[simp] theorem State.emit_fout (s : State) (e : OutEvent) : (s.emit e).fout = s.fout := rfl

@[simp] theorem State.seek_fsm (s : State) : s.seek.fsm = .seekingStart := rfl
@[simp] theorem State.seek_cnt (s : State) : s.seek.cnt = 0 := rfl
@[simp] theorem State.seek_buf (s : State) : s.seek.buf = [] := rfl
@[simp] theorem State.seek_halted (s : State) : s.seek.halted = s.halted := rfl
@[simp] theorem State.seek_runOff (s : State) : s.seek.runOff = s.runOff := rfl
@[simp] theorem State.seek_input (s : State) : s.seek.input = s.input := rfl
@[simp] theorem State.seek_out (s : State) : s.seek.out = s.out := rfl
@[simp] theorem State.seek_fout (s : State) : s.seek.fout = s.fout := rfl

@[simp] theorem State.raise_fsm (s : State) (e : ErrorEvent) : (s.raise e).fsm = .seekingStart := rfl
@[simp] theorem State.raise_cnt (s : State) (e : ErrorEvent) : (s.raise e).cnt = 0 := rfl
@[simp] theorem State.raise_buf (s : State) (e : ErrorEvent) : (s.raise e).buf = [] := rfl
@[simp] theorem State.raise_halted (s : State) (e : ErrorEvent) : (s.raise e).halted = haltedAfter e s.halted := rfl
@[simp] theorem State.raise_runOff (s : State) (e : ErrorEvent) : (s.raise e).runOff = s.runOff := rfl
@[simp] theorem State.raise_input (s : State) (e : ErrorEvent) : (s.raise e).input = s.input := rfl
@[simp] theorem State.raise_out (s : State) (e : ErrorEvent) : (s.raise e).out = .invalid e := rfl
@[simp] theorem State.raise_fout (s : State) (e : ErrorEvent) : (s.raise e).fout = s.fout := rfl

@[simp] theorem State.answer_fsm (s : State) (r : FuncResult) : (s.answer r).fsm = s.fsm := rfl
@[simp] theorem State.answer_cnt (s : State) (r : FuncResult) : (s.answer r).cnt = s.cnt := rfl
@[simp] theorem State.answer_buf (s : State) (r : FuncResult) : (s.answer r).buf = s.buf := rfl
@[simp] theorem State.answer_halted (s : State) (r : FuncResult) : (s.answer r).halted = s.halted := rfl
@[simp] theorem State.answer_runOff (s : State) (r : FuncResult) : (s.answer r).runOff = s.runOff := rfl
@[simp] theorem State.answer_input (s : State) (r : FuncResult) : (s.answer r).input = s.input := rfl
@[simp] theorem State.answer_out (s : State) (r : FuncResult) : (s.answer r).out = s.out := rfl
@[simp] theorem State.answer_fout (s : State) (r : FuncResult) : (s.answer r).fout = r := rfl

@[simp] theorem State.advance_fsm (s : State) : s.advance.fsm = if s.cnt = 73 then .checkingEnd else s.fsm := rfl
@[simp] theorem State.advance_cnt (s : State) : s.advance.cnt = s.cnt + 1 := rfl
@[simp] theorem State.advance_buf (s : State) : s.advance.buf = s.buf := rfl
@[simp] theorem State.advance_halted (s : State) : s.advance.halted = s.halted := rfl
@[simp] theorem State.advance_runOff (s : State) : s.advance.runOff = s.runOff := rfl
@[simp] theorem State.advance_input (s : State) : s.advance.input = s.input := rfl
@[simp] theorem State.advance_out (s : State) : s.advance.out = s.out := rfl
@[simp] theorem State.advance_fout (s : State) : s.advance.fout = s.fout := rfl

@[simp] theorem State.wait_fsm (s : State) : s.wait.fsm = s.fsm := rfl
@[simp] theorem State.wait_cnt (s : State) : s.wait.cnt = s.cnt := rfl
@[simp] theorem State.wait_buf (s : State) : s.wait.buf = s.buf := rfl
@[simp] theorem State.wait_halted (s : State) : s.wait.halted = s.halted := rfl
@[simp] theorem State.wait_runOff (s : State) : s.wait.runOff = s.runOff := rfl
@[simp] theorem State.wait_input (s : State) : s.wait.input = s.input := rfl
@[simp] theorem State.wait_out (s : State) : s.wait.out = .none := rfl
@[simp] theorem State.wait_fout (s : State) : s.wait.fout = s.fout := rfl

@[simp] theorem State.offer_fsm (s : State) (ev : InEvent) : (s.offer ev).fsm = s.fsm := rfl
@[simp] theorem State.offer_cnt (s : State) (ev : InEvent) : (s.offer ev).cnt = s.cnt := rfl
@[simp] theorem State.offer_buf (s : State) (ev : InEvent) : (s.offer ev).buf = s.buf := rfl
@[simp] theorem State.offer_halted (s : State) (ev : InEvent) : (s.offer ev).halted = s.halted := rfl
@[simp] theorem State.offer_runOff (s : State) (ev : InEvent) : (s.offer ev).runOff = s.runOff := rfl
@[simp] theorem State.offer_input (s : State) (ev : InEvent) : (s.offer ev).input = s.input ++ [ev] := rfl
@[simp] theorem State.offer_out (s : State) (ev : InEvent) : (s.offer ev).out = s.out := rfl
@[simp] theorem State.offer_fout (s : State) (ev : InEvent) : (s.offer ev).fout = s.fout := rfl

@[simp] theorem State.hostReset_fsm (s : State) : s.hostReset.fsm = .seekingStart := rfl
@[simp] theorem State.hostReset_cnt (s : State) : s.hostReset.cnt = 0 := rfl
@[simp] theorem State.hostReset_buf (s : State) : s.hostReset.buf = [] := rfl
@[simp] theorem State.hostReset_halted (s : State) : s.hostReset.halted = false := rfl
@[simp] theorem State.hostReset_runOff (s : State) : s.hostReset.runOff = s.runOff := rfl
@[simp] theorem State.hostReset_input (s : State) : s.hostReset.input = s.input := rfl
@[simp] theorem State.hostReset_out (s : State) : s.hostReset.out = .none := rfl
@[simp] theorem State.hostReset_fout (s : State) : s.hostReset.fout = .idle := rfl

@[simp] theorem State.resetWith_fsm (r : RunOff) : (State.resetWith r).fsm = .seekingStart := rfl
@[simp] theorem State.resetWith_cnt (r : RunOff) : (State.resetWith r).cnt = 0 := rfl
@[simp] theorem State.resetWith_buf (r : RunOff) : (State.resetWith r).buf = [] := rfl
@[simp] theorem State.resetWith_halted (r : RunOff) : (State.resetWith r).halted = false := rfl
@[simp] theorem State.resetWith_runOff (r : RunOff) : (State.resetWith r).runOff = r := rfl
@[simp] theorem State.resetWith_input (r : RunOff) : (State.resetWith r).input = [] := rfl
@[simp] theorem State.resetWith_out (r : RunOff) : (State.resetWith r).out = .none := rfl
@[simp] theorem State.resetWith_fout (r : RunOff) : (State.resetWith r).fout = .idle := rfl

end Sys2Proof.Machine
end

