-- ==== Sys2Proof/Laws/Memory.lean ====
section
/-! SUPPORT. The laws of memory: a read after a write, and the canonical form. -/

namespace Sys2Proof.Machine

/-- A read after a write to the same address gives the byte written. -/
theorem Memory.read_write_same (m : Memory) (i : Nat) (b : Byte) : Memory.read (Memory.write m i b) i = some b := by
  induction m with
  | nil => simp [Memory.write, Memory.read]
  | cons p m ih =>
    obtain ⟨a, v⟩ := p
    simp only [Memory.write]
    split
    · simp [Memory.read]
    · split
      · simp [Memory.read]
      · simp only [Memory.read]
        rw [if_neg (by omega)]
        exact ih

/-- A write leaves every other address alone. -/
theorem Memory.read_write_other (m : Memory) {i j : Nat} (b : Byte) (h : j ≠ i) :
    Memory.read (Memory.write m i b) j = Memory.read m j := by
  induction m with
  | nil => simp [Memory.write, Memory.read, Ne.symm h]
  | cons p m ih =>
    obtain ⟨a, v⟩ := p
    simp only [Memory.write]
    split
    · simp [Memory.read, Ne.symm h]
    · split
      · rename_i _ hia
        subst hia
        simp [Memory.read, Ne.symm h]
      · simp [Memory.read, ih]

/-- The addresses a write lists: the old ones and the one written. -/
theorem Memory.mem_write {m : Memory} {i : Nat} {b : Byte} {p : Host.Cell} (h : p ∈ Memory.write m i b) :
    p = (i, b) ∨ p ∈ m := by
  induction m with
  | nil => simpa [Memory.write] using h
  | cons q m ih =>
    obtain ⟨a, v⟩ := q
    simp only [Memory.write] at h
    split at h
    · simpa using h
    · split at h
      · rcases List.mem_cons.1 h with h | h
        · exact .inl h
        · exact .inr (List.mem_cons_of_mem _ h)
      · rcases List.mem_cons.1 h with h | h
        · exact .inr (by simp [h])
        · rcases ih h with h | h
          · exact .inl h
          · exact .inr (List.mem_cons_of_mem _ h)

/-- A write keeps the canonical form. -/
theorem Memory.wf_write {m : Memory} (h : Memory.wf m) (i : Nat) (b : Byte) : Memory.wf (Memory.write m i b) := by
  induction m with
  | nil => simp [Memory.write, Memory.wf]
  | cons p m ih =>
    obtain ⟨a, v⟩ := p
    obtain ⟨ha, hm⟩ := List.pairwise_cons.1 h
    simp only [Memory.write]
    split
    · rename_i hia
      refine List.pairwise_cons.2 ⟨fun q hq => ?_, h⟩
      rcases List.mem_cons.1 hq with rfl | hq
      · exact hia
      · exact Nat.lt_trans hia (ha q hq)
    · rename_i hia
      split
      · rename_i hEq
        subst hEq
        exact List.pairwise_cons.2 ⟨fun q hq => ha q hq, hm⟩
      · rename_i hne
        refine List.pairwise_cons.2 ⟨fun q hq => ?_, ih hm⟩
        rcases Memory.mem_write hq with rfl | hq
        · show a < i
          omega
        · exact ha q hq

/-- Reset's memory is canonical. -/
theorem Memory.wf_reset : Memory.wf State.reset.buf := List.Pairwise.nil

/-- Writing the cell after the listed ones appends it. -/
theorem Memory.fst_write_append {m : Memory} {n : Nat} (h : m.map Prod.fst = List.range n) (b : Byte) :
    (Memory.write m n b).map Prod.fst = List.range (n + 1) := by
  have key : ∀ (m : Memory), (∀ p ∈ m, p.1 < n) → (Memory.write m n b).map Prod.fst = m.map Prod.fst ++ [n] := by
    intro m
    induction m with
    | nil => intro _; rfl
    | cons p m ih =>
      obtain ⟨a, v⟩ := p
      intro hm
      have ha : a < n := hm (a, v) (by simp)
      simp only [Memory.write]
      rw [if_neg (by omega), if_neg (by omega)]
      simp [ih fun q hq => hm q (by simp [hq])]
  rw [key m, h, List.range_succ]
  intro p hp
  have : p.1 ∈ m.map Prod.fst := List.mem_map_of_mem hp
  simpa [h] using this

/-- A listed address reads as something. -/
theorem Memory.read_isSome {m : Memory} {i : Nat} (h : i ∈ m.map Prod.fst) : ∃ v, Memory.read m i = some v := by
  induction m with
  | nil => simp at h
  | cons p m ih =>
    obtain ⟨a, v⟩ := p
    simp only [Memory.read]
    split
    · exact ⟨v, rfl⟩
    · rename_i hne
      rcases List.mem_cons.1 (by simpa using h : i ∈ a :: m.map Prod.fst) with h | h
      · exact absurd h.symm hne
      · exact ih h

/-- An address that is not listed has no value. -/
theorem Memory.read_eq_none {m : Memory} {i : Nat} (h : i ∉ m.map Prod.fst) : Memory.read m i = none := by
  induction m with
  | nil => rfl
  | cons p m ih =>
    obtain ⟨a, v⟩ := p
    simp only [List.map_cons, List.mem_cons, not_or] at h
    simp only [Memory.read]
    rw [if_neg (Ne.symm h.1)]
    exact ih h.2

/-- Rising addresses make the form canonical. -/
theorem Memory.wf_of_range {m : Memory} {n : Nat} (h : m.map Prod.fst = List.range n) : Memory.wf m := by
  have : (m.map Prod.fst).Pairwise (· < ·) := h ▸ List.pairwise_lt_range
  exact List.pairwise_map.1 this

end Sys2Proof.Machine
end

