-- ==== Sys2Proof/Laws/Decode.lean ====
section
/-! SUPPORT. What the decoder reads from a selector word, and how `step` selects. -/

namespace Sys2Proof

/-- Bit `i` of the selector word, from the four fields it is made of (R90). -/
theorem selectorWord_getLsbD (h : Bool) (f : Fsm) (ev : InEvent) (i : Nat) :
    (selectorWord h f ev).getLsbD i =
      if i < 8 then (Machine.evByte ev).getLsbD i
      else if i - 8 < 2 then (Machine.evCode ev).getLsbD (i - 8)
      else if i - 8 - 2 < 2 then (Machine.fsmCode f).getLsbD (i - 8 - 2)
      else (BitVec.ofBool h).getLsbD (i - 8 - 2 - 2) := by
  have h1 : ∀ (x : BitVec 5) (y : BitVec 8), BitVec.getLsbD (w := 13) (x ++ y) i =
      if i < 8 then y.getLsbD i else x.getLsbD (i - 8) := fun x y => BitVec.getLsbD_append
  have h2 : ∀ (x : BitVec 3) (y : BitVec 2) (j : Nat), BitVec.getLsbD (w := 5) (x ++ y) j =
      if j < 2 then y.getLsbD j else x.getLsbD (j - 2) := fun x y j => BitVec.getLsbD_append
  have h3 : ∀ (x : BitVec 1) (y : BitVec 2) (j : Nat), BitVec.getLsbD (w := 3) (x ++ y) j =
      if j < 2 then y.getLsbD j else x.getLsbD (j - 2) := fun x y j => BitVec.getLsbD_append
  exact (h1 _ _).trans (by rw [h2, h3])

/-- The fields of the selector word of a state and event (R90). -/
theorem selectorWord_fields (h : Bool) (f : Fsm) (ev : InEvent) :
    selectorHalted (selectorWord h f ev) = h ∧ selectorFsm (selectorWord h f ev) = Machine.fsmCode f ∧
      selectorEv (selectorWord h f ev) = Machine.evCode ev ∧ selectorByte (selectorWord h f ev) = Machine.evByte ev := by
  refine ⟨(selectorWord_getLsbD h f ev 12).trans (by simp), ?_, ?_, ?_⟩
  all_goals
    refine BitVec.eq_of_getLsbD_eq fun i hi => ?_
  · have h1 : 10 + i - 8 - 2 = i := by omega
    have h2 : ¬ 10 + i < 8 := by omega
    have h3 : ¬ 10 + i - 8 < 2 := by omega
    simp [selectorFsm, selectorWord_getLsbD, hi, h1, h2, h3]
  · simp [selectorEv, selectorWord_getLsbD, hi]
  · simp [selectorByte, selectorWord_getLsbD, hi]

/-- The code of a state reads back as the state. -/
theorem fsmOfCode_fsmCode (f : Fsm) : Machine.fsmOfCode (Machine.fsmCode f) = some f := by cases f <;> rfl

/-- The code and byte of an event read back as the event. -/
theorem evOfCode_evCode (ev : InEvent) : Machine.evOfCode (Machine.evCode ev) (Machine.evByte ev) = some ev := by
  cases ev <;> rfl

/-- The decoder reads from a selector word the operation R91 selects in words. -/
theorem decodeSelector_selectorWord (h : Bool) (f : Fsm) (ev : InEvent) :
    decodeSelector (selectorWord h f ev) = .ok (selectOp h f ev) := by
  obtain ⟨h1, h2, h3, h4⟩ := selectorWord_fields h f ev
  simp [decodeSelector, h1, h2, h3, h4, fsmOfCode_fsmCode, evOfCode_evCode]

end Sys2Proof

namespace Sys2Proof.Machine

/-- With no event offered the block waits. -/
theorem step_waits {s : State} (h : s.input = []) : step s = .next s.wait := by
  simp [step, State.selector, State.offered, h]

/-- With an event offered `step` is `exec` of the operation selected. -/
theorem step_selects {s : State} {ev : InEvent} {rest : List InEvent} (h : s.input = ev :: rest) :
    step s = exec (selectOp s.halted s.fsm ev) s := by
  simp [step, State.selector, State.offered, h, decodeSelector_selectorWord]

/-- The selected operation, for an event offered. -/
theorem State.selects_iff {s : State} {ev : InEvent} {rest : List InEvent} (h : s.input = ev :: rest) (i : Instr) :
    s.selects i = true ↔ selectOp s.halted s.fsm ev = i := by
  simp [State.selects, State.offered, h]

/-- A selected operation has an event offered. -/
theorem State.selects_event {s : State} {i : Instr} (h : s.selects i = true) :
    ∃ ev rest, s.input = ev :: rest ∧ selectOp s.halted s.fsm ev = i := by
  cases hi : s.input with
  | nil => simp [State.selects, State.offered, hi] at h
  | cons ev rest => exact ⟨ev, rest, rfl, (State.selects_iff hi i).1 h⟩

/-- Where the operation is selected it runs. -/
theorem whenSelected_of_selects {i : Instr} {s : State} {k : Host.Outcome State Fault Refusal} (h : s.selects i = true) :
    whenSelected i s k = k := by simp [whenSelected, h]

/-- Where it is not, the machine stops. -/
theorem whenSelected_of_not {i : Instr} {s : State} {k : Host.Outcome State Fault Refusal} (h : s.selects i = false) :
    whenSelected i s k = .fault .notEnabled := by simp [whenSelected, h]

/-- All `whenSelected` can do: it answers a next state only where the operation is selected, and then the one `k` answers. -/
theorem whenSelected_eq_next {i : Instr} {s t : State} {k : Host.Outcome State Fault Refusal}
    (h : whenSelected i s k = .next t) : s.selects i = true ∧ k = .next t := by
  unfold whenSelected at h
  split at h
  · exact ⟨‹_›, h⟩
  · cases h

end Sys2Proof.Machine
end

