-- ==== Sys2Proof/Laws/Operands.lean ====
section
/-! SUPPORT. The frame in the buffer: when it is there, and what the functions of the frame answer. -/

namespace Sys2Proof.Machine

/-- `cell` depends on `cnt` and `buf` alone. -/
theorem State.cell_congr {s t : State} (hc : s.cnt = t.cnt) (hb : s.buf = t.buf) (i : Nat) : s.cell i = t.cell i := by
  simp [State.cell, hc, hb]

/-- `cellsFrom` depends on the cells alone. -/
theorem State.cellsFrom_congr {s t : State} (h : ∀ i, s.cell i = t.cell i) (n i : Nat) :
    s.cellsFrom i n = t.cellsFrom i n := by
  induction n generalizing i with
  | zero => rfl
  | succ n ih => simp [State.cellsFrom, h, ih]

/-- `frame?` depends on `cnt` and `buf` alone. -/
theorem State.frame?_congr {s t : State} (hc : s.cnt = t.cnt) (hb : s.buf = t.buf) : s.frame? = t.frame? := by
  simp [State.frame?, State.cellsFrom_congr (State.cell_congr hc hb)]

/-- The bytes `cellsFrom` gives are those of the cells. -/
theorem State.cellsFrom_eq_some {s : State} {n i : Nat} {l : List Byte} :
    s.cellsFrom i n = some l ↔ l.length = n ∧ ∀ j (h : j < l.length), s.cell (i + j) = some l[j] := by
  induction n generalizing i l with
  | zero =>
    constructor
    · intro h
      obtain rfl : [] = l := by simpa [State.cellsFrom] using h
      simp
    · rintro ⟨h, -⟩
      simp [State.cellsFrom, List.length_eq_zero_iff.1 h]
  | succ n ih =>
    constructor
    · intro h
      simp only [State.cellsFrom] at h
      split at h
      · rename_i b l' hb hl
        obtain rfl : b :: l' = l := by simpa using h
        obtain ⟨h1, h2⟩ := ih.1 hl
        refine ⟨by simp [h1], fun j hj => ?_⟩
        cases j with
        | zero => simpa using hb
        | succ j =>
          have := h2 j (by simpa using hj)
          simpa [Nat.add_assoc, Nat.add_comm 1 j] using this
      · cases h
    · rintro ⟨h1, h2⟩
      cases l with
      | nil => simp at h1
      | cons b l' =>
        have hb : s.cell i = some b := h2 0 (by simp)
        have hl : s.cellsFrom (i + 1) n = some l' := by
          refine ih.2 ⟨by simpa using h1, fun j hj => ?_⟩
          have := h2 (j + 1) (by simpa using hj)
          simpa [Nat.add_assoc, Nat.add_comm 1 j] using this
        simp [State.cellsFrom, hb, hl]

/-- A RawFrame is its 74 cells. -/
theorem RawFrame.ext_cell {f g : RawFrame} (h : ∀ i, f.cell i = g.cell i) : f = g := by
  obtain ⟨l, hl⟩ := f
  obtain ⟨m, hm⟩ := g
  have : l = m := by
    refine List.ext_getElem (by rw [hl, hm]) fun i h1 h2 => ?_
    exact h ⟨i, by rw [hl] at h1; exact h1⟩
  subst this
  rfl

/-- The frame is in the buffer exactly when the 74 cells are live and hold it. -/
theorem State.frame?_eq_some {s : State} {f : RawFrame} : s.frame? = some f ↔ s.HoldsFrame f := by
  constructor
  · intro h
    unfold State.frame? at h
    split at h
    · cases h
    · rename_i l hl
      split at h
      · rename_i hlen
        obtain rfl : (⟨l, hlen⟩ : RawFrame) = f := by simpa using h
        intro i
        have := (State.cellsFrom_eq_some.1 hl).2 i.val (by rw [hlen]; exact i.isLt)
        simpa [RawFrame.cell] using this
      · cases h
  · intro h
    have hl : s.cellsFrom 0 Config.frameLen = some f.bytes := by
      refine State.cellsFrom_eq_some.2 ⟨f.length_eq, fun j hj => ?_⟩
      have hj' : j < 74 := by rw [f.length_eq] at hj; exact hj
      simpa [RawFrame.cell] using h ⟨j, hj'⟩
    simp [State.frame?, hl, f.length_eq]

/-- The function of a frame in the buffer is answered. -/
theorem withFrame_of_holds {s : State} {f : RawFrame} (h : s.HoldsFrame f) (k : RawFrame → FuncResult) :
    withFrame s k = .next (s.answer (k f)) := by
  simp [withFrame, State.frame?_eq_some.2 h]

/-- All `withFrame` can do when it answers a next state. -/
theorem withFrame_eq_next {s t : State} {k : RawFrame → FuncResult} (h : withFrame s k = .next t) :
    ∃ f, s.HoldsFrame f ∧ t = s.answer (k f) := by
  unfold withFrame at h
  split at h
  · rename_i f hf
    exact ⟨f, State.frame?_eq_some.1 hf, by simpa using h.symm⟩
  · cases h

/-- With a dead cell among the 74 there is no frame. -/
theorem State.frame?_eq_none {s : State} {i : Nat} (hi : i < 74) (h : s.cell i = none) : s.frame? = none := by
  cases hf : s.frame? with
  | none => rfl
  | some f =>
    have := State.frame?_eq_some.1 hf ⟨i, hi⟩
    rw [h] at this
    cases this

/-- Where exactly the cells below `cnt` are listed, exactly they are live. -/
theorem State.cell_isSome {s : State} (h : s.LiveCells) (i : Nat) : (∃ v, s.cell i = some v) ↔ i < s.cnt := by
  unfold State.cell
  split
  · rename_i hi
    exact ⟨fun _ => hi, fun _ => Memory.read_isSome (by rw [h]; simpa using hi)⟩
  · rename_i hi
    simp [hi]

/-- A state whose 74 cells are live holds a frame. -/
theorem State.exists_frame {s : State} (h : s.LiveCells) (hc : s.cnt = 74) : ∃ f, s.HoldsFrame f := by
  have hlive : ∀ n i, i + n ≤ 74 → ∃ l, s.cellsFrom i n = some l := by
    intro n
    induction n with
    | zero => intro i _; exact ⟨[], rfl⟩
    | succ n ih =>
      intro i hi
      obtain ⟨l, hl⟩ := ih (i + 1) (by omega)
      obtain ⟨b, hb⟩ := (State.cell_isSome h i).2 (by omega)
      exact ⟨b :: l, by simp [State.cellsFrom, hb, hl]⟩
  obtain ⟨l, hl⟩ := hlive 74 0 (by omega)
  have hlen := (State.cellsFrom_eq_some.1 hl).1
  have : s.frame? = some ⟨l, hlen⟩ := by simp [State.frame?, hl, hlen]
  exact ⟨_, State.frame?_eq_some.1 this⟩

end Sys2Proof.Machine
end

