-- ==== Sys2Proof/Laws/PerInstr.lean ====
section
/-! SUPPORT. One lemma per operation: how its encoding lies in bytes. A step operation takes the two bytes of a selector word, a field
operation one byte, a function none (R90, R91, R95). -/

namespace Sys2Proof.Laws

/-- The number of bytes of an encoding, by format. -/
def EncodedSize.bytesOf : Format → Option Nat
  | .step => some 2
  | .func => none
  | .field => some 1

/-- The encoding of `i` has the size of its format. -/
def EncodedSize.Statement (i : Instr) : Prop := (encode i).map List.length = EncodedSize.bytesOf i.format

theorem EncodedSize.halted : EncodedSize.Statement .halted := rfl
theorem EncodedSize.fatal : EncodedSize.Statement .fatal := rfl
theorem EncodedSize.idleFail : EncodedSize.Statement .idleFail := rfl
theorem EncodedSize.abortB : EncodedSize.Statement .abortB := rfl
theorem EncodedSize.abortE : EncodedSize.Statement .abortE := rfl
theorem EncodedSize.start : EncodedSize.Statement .start := rfl
theorem EncodedSize.skip (b : Byte) : EncodedSize.Statement (.skip b) := rfl
theorem EncodedSize.body (b : Byte) : EncodedSize.Statement (.body b) := rfl
theorem EncodedSize.endFrame : EncodedSize.Statement .endFrame := rfl
theorem EncodedSize.endMiss (b : Byte) : EncodedSize.Statement (.endMiss b) := rfl
theorem EncodedSize.cksum : EncodedSize.Statement .cksum := rfl
theorem EncodedSize.ckext : EncodedSize.Statement .ckext := rfl
theorem EncodedSize.ckvfy : EncodedSize.Statement .ckvfy := rfl
theorem EncodedSize.rawb (b0 : Byte) : EncodedSize.Statement (.rawb b0) := rfl
theorem EncodedSize.fixf (b0 b1 : Byte) : EncodedSize.Statement (.fixf b0 b1) := rfl
theorem EncodedSize.scli (b0 b1 : Byte) : EncodedSize.Statement (.scli b0 b1) := rfl
theorem EncodedSize.niblo (b0 : Byte) : EncodedSize.Statement (.niblo b0) := rfl
theorem EncodedSize.nibhi (b0 : Byte) : EncodedSize.Statement (.nibhi b0) := rfl
theorem EncodedSize.bitt (b0 m : Byte) : EncodedSize.Statement (.bitt b0 m) := rfl
theorem EncodedSize.enumLookup (v : Byte) (n : Nat) : EncodedSize.Statement (.enumLookup v n) := rfl
theorem EncodedSize.fCfg : EncodedSize.Statement .fCfg := rfl
theorem EncodedSize.fMode : EncodedSize.Statement .fMode := rfl
theorem EncodedSize.fDir : EncodedSize.Statement .fDir := rfl
theorem EncodedSize.fCyc : EncodedSize.Statement .fCyc := rfl
theorem EncodedSize.fRun : EncodedSize.Statement .fRun := rfl
theorem EncodedSize.fIout : EncodedSize.Statement .fIout := rfl
theorem EncodedSize.fVout : EncodedSize.Statement .fVout := rfl
theorem EncodedSize.fVin : EncodedSize.Statement .fVin := rfl
theorem EncodedSize.fQout : EncodedSize.Statement .fQout := rfl
theorem EncodedSize.fTime : EncodedSize.Statement .fTime := rfl
theorem EncodedSize.decode : EncodedSize.Statement .decode := rfl

end Sys2Proof.Laws
end

