-- ==== Sys2Proof/Laws/RegisterMap.lean ====
section
/-! SUPPORT. What the field operations answer under any Register Map, and what the entries of the one in scope read. -/

namespace Sys2Proof.Machine

/-- The value of a part of a byte as a number. -/
theorem BytePart.value_toNat (p : BytePart) (b : Byte) :
    (p.value b).toNat = match p with
      | .whole => b.toNat
      | .lowNibble => b.toNat % 16
      | .highNibble => b.toNat / 16 := by
  cases p
  · rfl
  · simp [BytePart.value, niblo, rawb]; omega
  · have := b.isLt
    simp [BytePart.value, nibhi, rawb, BitVec.extractLsb'_toNat, Nat.shiftRight_eq_div_pow]; omega

/-- An index below its table's length is answered. -/
theorem enumField_of_lt {e : MapEntry 1 EnumRule} {f : RawFrame} (h : (enumValue e f).toNat < e.rule.labels.length) :
    enumField e f = .ok (enumValue e f) := by
  simp [enumField, enumLookup, Nat.not_le.2 h]

/-- An index from its table's length on is out of range. -/
theorem enumField_of_le {e : MapEntry 1 EnumRule} {f : RawFrame} (h : e.rule.labels.length ≤ (enumValue e f).toNat) :
    enumField e f = .outOfRange := by
  simp [enumField, enumLookup, h]

/-- Both decoding rules of a number give the same integer (R162). -/
theorem numberField_eq (e : MapEntry 2 NumberRule) (f : RawFrame) :
    numberField e f = radix100 (e.pair f).1 (e.pair f).2 := by
  unfold numberField
  cases e.rule.decoding <;> rfl

@[simp] theorem registerMap_cfg_byte (r : RunOff) (f : RawFrame) : (registerMap r).cfg.byte f = f.byteAt 0 := rfl
@[simp] theorem registerMap_mode_value (r : RunOff) (f : RawFrame) : enumValue (registerMap r).mode f = f.byteAt 22 := rfl
@[simp] theorem registerMap_run_value (r : RunOff) (f : RawFrame) : enumValue (registerMap r).run f = f.byteAt r := rfl
@[simp] theorem registerMap_iout_pair (r : RunOff) (f : RawFrame) : (registerMap r).iout.pair f = f.pairAt 32 := rfl
@[simp] theorem registerMap_vout_pair (r : RunOff) (f : RawFrame) : (registerMap r).vout.pair f = f.pairAt 34 := rfl
@[simp] theorem registerMap_vin_pair (r : RunOff) (f : RawFrame) : (registerMap r).vin.pair f = f.pairAt 40 := rfl
@[simp] theorem registerMap_qout_pair (r : RunOff) (f : RawFrame) : (registerMap r).qout.pair f = f.pairAt 42 := rfl
@[simp] theorem registerMap_time_pair (r : RunOff) (f : RawFrame) : (registerMap r).time.pair f = f.pairAt 68 := rfl

/-- The direction's index is the low nibble of cell 23. -/
theorem registerMap_dir_value (r : RunOff) (f : RawFrame) : (enumValue (registerMap r).dir f).toNat = f.num 23 % 16 :=
  BytePart.value_toNat .lowNibble _

/-- The cycle mode's index is the high nibble of cell 23. -/
theorem registerMap_cyc_value (r : RunOff) (f : RawFrame) : (enumValue (registerMap r).cyc f).toNat = f.num 23 / 16 :=
  BytePart.value_toNat .highNibble _

end Sys2Proof.Machine
end

