-- ==== Sys2Proof/Laws/Synchronizer.lean ====
section
/-! SUPPORT. All each step operation can do when it answers a next state: where it is selected, and the one state it answers. -/

namespace Sys2Proof.Machine

theorem execHalted_next {s t : State} (h : execHalted s = .next t) : s.selects .halted = true ∧ t = s.emit .none := by
  obtain ⟨hs, hk⟩ := whenSelected_eq_next h
  exact ⟨hs, by simpa using hk.symm⟩

theorem execFatal_next {s t : State} (h : execFatal s = .next t) :
    s.selects .fatal = true ∧ t = s.consume.raise .streamFatal := by
  obtain ⟨hs, hk⟩ := whenSelected_eq_next h
  exact ⟨hs, by simpa using hk.symm⟩

theorem execIdleFail_next {s t : State} (h : execIdleFail s = .next t) :
    s.selects .idleFail = true ∧ t = s.consume.emit .none := by
  obtain ⟨hs, hk⟩ := whenSelected_eq_next h
  exact ⟨hs, by simpa using hk.symm⟩

theorem execAbortB_next {s t : State} (h : execAbortB s = .next t) :
    s.selects .abortB = true ∧ t = s.consume.raise (.readFailBody s.cnt) := by
  obtain ⟨hs, hk⟩ := whenSelected_eq_next h
  exact ⟨hs, by simpa using hk.symm⟩

theorem execAbortE_next {s t : State} (h : execAbortE s = .next t) :
    s.selects .abortE = true ∧ t = s.consume.raise .readFailEnd := by
  obtain ⟨hs, hk⟩ := whenSelected_eq_next h
  exact ⟨hs, by simpa using hk.symm⟩

theorem execStart_next {s t : State} (h : execStart s = .next t) :
    s.selects .start = true ∧ t = { s.consume.seek.emit .none with fsm := .readingBody } := by
  obtain ⟨hs, hk⟩ := whenSelected_eq_next h
  exact ⟨hs, by simpa using hk.symm⟩

theorem execSkip_next {b : Byte} {s t : State} (h : execSkip b s = .next t) :
    s.selects (.skip b) = true ∧ t = s.consume.emit .none := by
  obtain ⟨hs, hk⟩ := whenSelected_eq_next h
  exact ⟨hs, by simpa using hk.symm⟩

theorem execBody_next {b : Byte} {s t : State} (h : execBody b s = .next t) :
    s.selects (.body b) = true ∧ s.cnt < 74 ∧
      t = ({ s.consume with buf := Memory.write s.buf s.cnt b }.advance).emit .none := by
  obtain ⟨hs, hk⟩ := whenSelected_eq_next h
  by_cases hc : s.cnt < 74
  · have hm : s.consume.memWrite s.cnt b = some { s.consume with buf := Memory.write s.buf s.cnt b } := by
      simp [State.memWrite, hc]
    rw [hm] at hk
    exact ⟨hs, hc, by simpa using hk.symm⟩
  · have hm : s.consume.memWrite s.cnt b = none := by simp [State.memWrite, hc]
    rw [hm] at hk
    cases hk

theorem execEndFrame_next {s t : State} (h : execEndFrame s = .next t) :
    s.selects .endFrame = true ∧
      ∃ f, s.HoldsFrame f ∧ t = s.consume.finish f (decodeFrame (registerMap s.runOff) f) := by
  obtain ⟨hs, hk⟩ := whenSelected_eq_next h
  cases hf : s.frame? with
  | none => rw [hf] at hk; cases hk
  | some f =>
    rw [hf] at hk
    exact ⟨hs, f, State.frame?_eq_some.1 hf, by simpa using hk.symm⟩

theorem execEndMiss_next {b : Byte} {s t : State} (h : execEndMiss b s = .next t) :
    s.selects (.endMiss b) = true ∧ ∃ f, s.HoldsFrame f ∧ t = s.consume.raise (.endMismatch b f) := by
  obtain ⟨hs, hk⟩ := whenSelected_eq_next h
  cases hf : s.frame? with
  | none => rw [hf] at hk; cases hk
  | some f =>
    rw [hf] at hk
    exact ⟨hs, f, State.frame?_eq_some.1 hf, by simpa using hk.symm⟩

/-- The end of a candidate is seeking with nothing kept and the verdict emitted (R124). -/
theorem State.finish_eq (s : State) (f : RawFrame) (r : DecodeResult) : s.finish f r = s.seek.emit (verdictOf f r) := by
  cases r <;> simp [State.finish, verdictOf, State.raise, haltedAfter, ErrorEvent.isFatal] <;> rfl

/-- What the selector word selects is a step operation, never a function (R91). -/
theorem selectOp_isStepOp (h : Bool) (f : Fsm) (ev : InEvent) : isStepOp (selectOp h f ev) = true := by
  unfold selectOp
  split
  · rfl
  · split <;> (try split) <;> rfl

/-- Only HALTED is selected while `halted` is set (R91 row 1). -/
theorem not_halted_of_selectOp {h : Bool} {f : Fsm} {ev : InEvent} {i : Instr} (hs : selectOp h f ev = i)
    (hi : i ≠ .halted) : h = false := by
  cases h with
  | false => rfl
  | true => exact absurd hs.symm hi

/-- All `step` can do when it answers a next state: it waits, or it is `exec` of the operation selected. -/
theorem step_next {s t : State} (h : step s = .next t) :
    s.input = [] ∧ t = s.wait ∨
      ∃ ev rest, s.input = ev :: rest ∧ exec (selectOp s.halted s.fsm ev) s = .next t := by
  cases hi : s.input with
  | nil =>
    rw [step_waits hi] at h
    exact .inl ⟨rfl, by simpa using h.symm⟩
  | cons ev rest =>
    rw [step_selects hi] at h
    exact .inr ⟨ev, rest, rfl, h⟩

end Sys2Proof.Machine
end

