-- ==== Sys2Proof/Laws/Runs.lean ====
section
/-! SUPPORT. Runs: one step at a time, in two parts, and what the result of a run lists. -/

namespace Sys2Proof.Machine

/-- The first step of a run. -/
theorem runSteps_cons {s t : State} {ev : InEvent} {rest : List InEvent} (k : Nat) (hh : s.halted = false)
    (hi : s.input = ev :: rest) (h : step s = .next t) : runSteps (k + 1) s = (t.out :: (runSteps k t).1, (runSteps k t).2) := by
  simp [runSteps, hh, hi, h]

/-- A run has ended where no event is offered. -/
theorem runSteps_of_input_nil {s : State} (k : Nat) (hi : s.input = []) : runSteps k s = ([], s) := by
  cases k <;> simp [runSteps, hi]

/-- A run in two parts. -/
theorem runSteps_add (j k : Nat) (s : State) :
    runSteps (j + k) s = ((runSteps j s).1 ++ (runSteps k (runSteps j s).2).1, (runSteps k (runSteps j s).2).2) := by
  induction j generalizing s with
  | zero => simp [runSteps]
  | succ j ih =>
    have stuck : runSteps (j + k + 1) s = ([], s) → runSteps (j + 1) s = ([], s) → runSteps k s = ([], s) →
        runSteps (j + k + 1) s =
          ((runSteps (j + 1) s).1 ++ (runSteps k (runSteps (j + 1) s).2).1, (runSteps k (runSteps (j + 1) s).2).2) := by
      intro h1 h2 h3
      rw [h1, h2, h3]
      rfl
    rw [Nat.add_right_comm]
    by_cases he : (s.halted || s.input.isEmpty) = true
    · exact stuck (by simp [runSteps, he]) (by simp [runSteps, he]) (by cases k <;> simp [runSteps, he])
    · cases hs : step s with
      | next t => simp [runSteps, he, hs, ih t]
      | fault x => exact stuck (by simp [runSteps, he, hs]) (by simp [runSteps, he, hs]) (by cases k <;> simp [runSteps, he, hs])
      | refused x => exact stuck (by simp [runSteps, he, hs]) (by simp [runSteps, he, hs]) (by cases k <;> simp [runSteps, he, hs])

/-- What two parts of a run emit. -/
theorem emitted_append (l m : List OutEvent) : emitted (l ++ m) = emitted l ++ emitted m := by
  simp [emitted]

/-- Steps that emit None add nothing to the result. -/
@[simp] theorem emitted_replicate_none (n : Nat) : emitted (List.replicate n .none) = [] := by
  simp [emitted]

/-- No verdict is None. -/
@[simp] theorem emitted_verdict (f : RawFrame) (r : DecodeResult) : emitted [verdictOf f r] = [verdictOf f r] := by
  cases r <;> rfl

end Sys2Proof.Machine
end

