-- ==== Sys2Proof/Tests/Slice0.lean ====
section
/-! SUPPORT. The model's own tests. Expected results come from 95_test_vectors.md (the vector is named) or from the encoding rules. -/

namespace Sys2Proof.Tests

set_option maxRecDepth 1000000

open Sys2Proof.Machine

/-! ## Helpers -/

/-- `P(i=v, ...)` of R98: 72 bytes, zero but for the listed offsets. -/
def payload (l : List (Nat × Byte)) : List Byte :=
  (List.range 72).map fun i => (l.lookup i).getD 0#8

/-- The RawFrame of `F(P, hi, lo)` (R98). -/
def frame (l : List (Nat × Byte)) (hi lo : Byte) : RawFrame := ⟨payload l ++ [hi, lo], by simp [payload]⟩

/-- `PA` of 95_test_vectors.md. -/
def pa : List (Nat × Byte) := [(22, 1#8)]

/-- `PB` of 95_test_vectors.md. -/
def pb : List (Nat × Byte) :=
  [(0, 0x1A#8), (7, 1#8), (22, 1#8), (23, 0x11#8), (32, 1#8), (33, 50#8), (34, 12#8)] ++
  [(35, 34#8), (40, 12#8), (41, 34#8), (42, 1#8), (43, 23#8), (69, 45#8)]

/-- The RawFrame of `FB`. -/
def fb : RawFrame := frame pb 0x30#8 0x31#8

/-- The all-zero Message. -/
def zeroMsg : Message := ⟨0, 0, 0, 0, 0, 0, 0, 0, 0, 0, 0, 0, 0⟩

/-- `MB` of 95_test_vectors.md. -/
def mb : Message := ⟨1, 0, 1, 1, 1, 1, 1, 1, 150, 1234, 1234, 123, 45⟩

/-- Seeking, with events offered. -/
def seeking (input : List InEvent) : State := { State.reset with input := input }

/-- Reading the body with `n` bytes `b` stored. -/
def reading (n : Nat) (b : Byte) (input : List InEvent) : State :=
  { State.reset with fsm := .readingBody, cnt := n, buf := (List.range n).map fun a => (a, b), input := input }

/-- Checking the end of the candidate `f`. -/
def checking (f : RawFrame) (input : List InEvent) : State :=
  { State.reset with fsm := .checkingEnd, cnt := 74, buf := (List.range 74).zip f.bytes, input := input }

/-- Halted, with events offered. -/
def stopped (input : List InEvent) : State := { State.reset with halted := true, input := input }

/-- The next state, if there is one. -/
def nextOf (o : Host.Outcome State Fault Refusal) : Option State :=
  match o with
  | .next t => some t
  | _ => none

/-- The position after a step: (`fsm`, `cnt`, `halted`). -/
def positionAfter (s : State) : Option (Fsm × Nat × Bool) := (nextOf (step s)).map fun t => (t.fsm, t.cnt, t.halted)

/-- The output event of a step. -/
def outAfter (s : State) : Option OutEvent := (nextOf (step s)).map fun t => t.out

/-- The value a function answers. -/
def answerOf (i : Instr) (s : State) : Option FuncResult := (nextOf (exec i s)).map fun t => t.fout

/-! ## Well-formedness: an ill-formed term for each check -/

theorem test_wf_skip_start_sentinel : (Instr.skip 0x7B#8).wf = false ∧ (Instr.skip 0x7D#8).wf = true := by decide
theorem test_wf_endMiss_end_sentinel : (Instr.endMiss 0x7D#8).wf = false ∧ (Instr.endMiss 0x7B#8).wf = true := by decide
theorem test_wf_bitt_mask : (Instr.bitt 0#8 0x06#8).wf = false ∧ (Instr.bitt 0#8 0#8).wf = false ∧
    (Instr.bitt 0#8 0x10#8).wf = true := by decide
theorem test_wf_enum_length : (Instr.enumLookup 0#8 3).wf = false ∧ (Instr.enumLookup 0#8 7).wf = true := by decide

/-! ## Decoding: a word of each operation, bit by bit from R90 and R91 (halted, fsm, ev, b) and R95 -/

theorem test_decode_halted : decodeTableWord 16 0b1_00_00_00000000 = some .halted := by decide
theorem test_decode_halted_any : decodeTableWord 16 0b1_01_01_11111111 = some .halted := by decide
theorem test_decode_fatal : decodeTableWord 16 0b0_10_10_00000000 = some .fatal := by decide
theorem test_decode_idleFail : decodeTableWord 16 0b0_00_01_00000000 = some .idleFail := by decide
theorem test_decode_abortB : decodeTableWord 16 0b0_01_01_00000000 = some .abortB := by decide
theorem test_decode_abortE : decodeTableWord 16 0b0_10_01_00000000 = some .abortE := by decide
theorem test_decode_start : decodeTableWord 16 0b0_00_00_01111011 = some .start := by decide
theorem test_decode_skip : decodeTableWord 16 0b0_00_00_11111011 = some (.skip 0xFB#8) := by decide
theorem test_decode_body : decodeTableWord 16 0b0_01_00_01111101 = some (.body 0x7D#8) := by decide
theorem test_decode_endFrame : decodeTableWord 16 0b0_10_00_01111101 = some .endFrame := by decide
theorem test_decode_endMiss : decodeTableWord 16 0b0_10_00_11111101 = some (.endMiss 0xFD#8) := by decide
theorem test_decode_fCfg : decodeTableWord 8 0b0000 = some .fCfg := by decide
theorem test_decode_fMode : decodeTableWord 8 0b0001 = some .fMode := by decide
theorem test_decode_fDir : decodeTableWord 8 0b0010 = some .fDir := by decide
theorem test_decode_fCyc : decodeTableWord 8 0b0011 = some .fCyc := by decide
theorem test_decode_fRun : decodeTableWord 8 0b0100 = some .fRun := by decide
theorem test_decode_fIout : decodeTableWord 8 0b0101 = some .fIout := by decide
theorem test_decode_fVout : decodeTableWord 8 0b0110 = some .fVout := by decide
theorem test_decode_fVin : decodeTableWord 8 0b0111 = some .fVin := by decide
theorem test_decode_fQout : decodeTableWord 8 0b1000 = some .fQout := by decide
theorem test_decode_fTime : decodeTableWord 8 0b1001 = some .fTime := by decide
/-- R96(f): `ev = 11` and `fsm = 11` are no encodings, by name; so are stray bits, a field id above 9 and no bytes. -/
theorem test_decode_rejects :
    decodeBytes [0x00#8, 0x03#8] = .error .reservedEvent ∧ decodeBytes [0x00#8, 0x0E#8] = .error .unusedState ∧
    decodeBytes [0x00#8, 0x20#8] = .error .strayBits ∧ decodeBytes [0x0A#8] = .error .noSuchField ∧
    decodeBytes [] = .error .wrongLength := by
  refine ⟨rfl, rfl, rfl, rfl, rfl⟩

/-! ## The step operations: vectors S1 to S24 -/

theorem test_S2_skip : positionAfter (seeking [.byte 0x7D#8]) = some (.seekingStart, 0, false) ∧
    outAfter (seeking [.byte 0x7D#8]) = some .none := by decide
theorem test_S3_skip : positionAfter (seeking [.byte 0xFB#8]) = some (.seekingStart, 0, false) := by decide
theorem test_S4_start : positionAfter (seeking [.byte 0x7B#8]) = some (.readingBody, 0, false) := by decide
theorem test_S6_body : positionAfter (reading 5 0#8 [.byte 0x7B#8]) = some (.readingBody, 6, false) ∧
    (nextOf (step (reading 5 0#8 [.byte 0x7B#8]))).bind (fun t => t.cell 5) = some 0x7B#8 := by decide
theorem test_S9_body : positionAfter (reading 73 0#8 [.byte 0x31#8]) = some (.checkingEnd, 74, false) ∧
    (nextOf (step (reading 73 0#8 [.byte 0x31#8]))).bind (fun t => t.cell 73) = some 0x31#8 := by decide
theorem test_S10_end : outAfter (checking fb [.byte 0x7D#8]) = some (.valid mb fb) := by decide
theorem test_S11_end : outAfter (checking (frame pb 0x30#8 0x32#8) [.byte 0x7D#8]) =
    some (.invalid (.checksumMismatch 0x01#8 0x02#8 (frame pb 0x30#8 0x32#8))) := by decide
theorem test_S12_endMiss : positionAfter (checking fb [.byte 0x7B#8]) = some (.seekingStart, 0, false) ∧
    outAfter (checking fb [.byte 0x7B#8]) = some (.invalid (.endMismatch 0x7B#8 fb)) := by decide
theorem test_S14_endMiss : outAfter (checking fb [.byte 0xFD#8]) = some (.invalid (.endMismatch 0xFD#8 fb)) := by decide
theorem test_S15_idleFail : positionAfter (seeking [.rdFail]) = some (.seekingStart, 0, false) ∧
    outAfter (seeking [.rdFail]) = some .none := by decide
theorem test_S16_abortB : outAfter (reading 0 0#8 [.rdFail]) = some (.invalid (.readFailBody 0)) := by decide
theorem test_S17_abortB : positionAfter (reading 40 0#8 [.rdFail]) = some (.seekingStart, 0, false) ∧
    outAfter (reading 40 0#8 [.rdFail]) = some (.invalid (.readFailBody 40)) := by decide
theorem test_S19_abortE : outAfter (checking fb [.rdFail]) = some (.invalid .readFailEnd) := by decide
theorem test_S21_fatal : positionAfter (reading 10 0#8 [.fatal]) = some (.seekingStart, 0, true) := by decide
theorem test_S22_fatal : outAfter (checking fb [.fatal]) = some (.invalid .streamFatal) := by decide
theorem test_S23_halted : nextOf (step (stopped [.byte 0x7B#8])) = some (stopped [.byte 0x7B#8]) := by decide
theorem test_S24_halted : outAfter (stopped [.fatal]) = some .none := by decide
/-- R50: no event, no change. -/
theorem test_waits : nextOf (step (reading 3 9#8 [])) = some (reading 3 9#8 []) := by decide
/-- Z2 and Z3: reset in a candidate, and reset of a halted block. -/
theorem test_Z2_Z3_reset : (reading 40 1#8 []).hostReset = State.reset ∧ (stopped []).hostReset = State.reset := by decide
/-- A RUN_OFF above 71 is refused (I19). -/
theorem test_runOff_refused : runOffOfNat 72 = none ∧ runOffOfNat 71 = some 71 := by decide

/-! ## The Checksum Unit: vectors K1 to K24 -/

theorem test_K3_cksum : answerOf .cksum (checking fb []) = some (.byte 0x01#8) := by decide
theorem test_K4_cksum : cksum ⟨List.replicate 74 0xFF#8, by decide⟩ = 0xB8#8 := by decide
theorem test_K12_ckext : answerOf .ckext (checking (frame [] 0x3E#8 0x39#8) []) = some (.byte 0xE9#8) := by decide
theorem test_K14_ckext : ckext (frame [] 0xF0#8 0xF0#8) = 0x00#8 := by decide
theorem test_K18_ckvfy : answerOf .ckvfy (checking (frame pa 0x00#8 0x00#8) []) = some (.verdict false) := by decide
theorem test_K20_ckvfy : ckvfy (frame pa 0x10#8 0x01#8) = true := by decide

/-! ## The Field Codec: vectors V1 to V34 -/

theorem test_V1_rawb : answerOf (.rawb 0x11#8) State.reset = some (.byte 0x11#8) := by decide
theorem test_V3_fixf : answerOf (.fixf 12#8 34#8) State.reset = some (.word 1234) := by decide
theorem test_V11_fixf : fixf 255#8 255#8 = 25755 := by decide
theorem test_V13_scli : answerOf (.scli 1#8 23#8) State.reset = some (.word 123) := by decide
theorem test_V16_scli : scli 255#8 255#8 = 25755 := by decide
theorem test_V19_niblo : answerOf (.niblo 0xF0#8) State.reset = some (.nibble 0) := by decide
theorem test_V20_niblo : niblo 0xFF#8 = 15 := by decide
theorem test_V22_nibhi : answerOf (.nibhi 0x0F#8) State.reset = some (.nibble 0) := by decide
theorem test_V23_nibhi : nibhi 0x80#8 = 8 := by decide
theorem test_V24_bitt : answerOf (.bitt 0x1A#8 0x02#8) State.reset = some (.bit 1) := by decide
theorem test_V25_V28_bitt : bitt 0x1A#8 0x04#8 = 0 ∧ bitt 0xE1#8 0x10#8 = 0 := by decide
theorem test_V30_enum : answerOf (.enumLookup 6#8 7) State.reset = some (.enumerated (.ok 6#8)) := by decide
theorem test_V31_V32_enum : enumLookup 7#8 7 = .outOfRange ∧ enumLookup 255#8 7 = .outOfRange := by decide

/-! ## The field operations and DECODE: vectors M1 to M29 -/

theorem test_M2_fCfg : answerOf .fCfg (checking fb []) = some (.config ⟨1, 0, 1, 1⟩) := by decide
theorem test_M5_fCfg : fCfg (registerMap 7) (frame [(0, 0xE1#8)] 0x0E#8 0x01#8) = ⟨0, 0, 0, 0⟩ := by decide
theorem test_M2_fMode : answerOf .fMode (checking fb []) = some (.enumerated (.ok 1#8)) := by decide
theorem test_M7_fMode : fMode (registerMap 7) (frame [(22, 7#8)] 0x00#8 0x07#8) = .outOfRange := by decide
theorem test_M9_fDir : answerOf .fDir (checking (frame [(23, 0x01#8)] 0x00#8 0x01#8) []) =
    some (.enumerated (.ok 1#8)) := by decide
theorem test_M10_fDir : fDir (registerMap 7) (frame [(23, 0x12#8)] 0x01#8 0x02#8) = .outOfRange := by decide
theorem test_M8_fCyc : answerOf .fCyc (checking (frame [(23, 0x10#8)] 0x01#8 0x00#8) []) =
    some (.enumerated (.ok 1#8)) := by decide
theorem test_M13_fCyc : fCyc (registerMap 7) (frame [(23, 0x80#8)] 0x08#8 0x00#8) = .outOfRange := by decide
theorem test_M14_fRun : answerOf .fRun (checking (frame [(7, 1#8)] 0x00#8 0x01#8) []) =
    some (.enumerated (.ok 1#8)) := by decide
theorem test_M28_fRun : fRun (registerMap 23) (frame [(23, 0x10#8)] 0x01#8 0x00#8) = .outOfRange := by decide
theorem test_M22_fIout : answerOf .fIout (checking (frame [(32, 2#8), (33, 5#8)] 0x00#8 0x07#8) []) =
    some (.word 205) := by decide
theorem test_M23_fVout : answerOf .fVout (checking (frame [(34, 123#8)] 0x07#8 0x0B#8) []) = some (.word 12300) := by decide
theorem test_M18_fVin : answerOf .fVin (checking (frame [(40, 1#8), (41, 150#8)] 0x09#8 0x07#8) []) =
    some (.word 250) := by decide
theorem test_M2_fQout : answerOf .fQout (checking fb []) = some (.word 123) := by decide
theorem test_M24_fTime : answerOf .fTime (checking (frame [(68, 1#8), (69, 30#8)] 0x01#8 0x0F#8) []) =
    some (.word 130) := by decide
theorem test_M2_decode : answerOf .decode (checking fb []) = some (.decoded (.ok mb)) := by decide
/-- M12, M16 and M17: DIR before CYC, MODE before RUN, the checksum before any field. -/
theorem test_M12_M16_M17_decode :
    decodeFrame (registerMap 7) (frame [(23, 0x22#8)] 0x02#8 0x02#8) = .outOfRange .dir 2#8 ∧
    decodeFrame (registerMap 7) (frame [(7, 2#8), (22, 9#8)] 0x00#8 0x0B#8) = .outOfRange .mode 9#8 ∧
    decodeFrame (registerMap 7) (frame [(22, 7#8)] 0x00#8 0x08#8) = .checksumMismatch 0x07#8 0x08#8 := by decide
/-- M25 and M27: unassigned bytes, and RUN_OFF = 23. -/
theorem test_M25_M27_decode :
    decodeFrame (registerMap 7) (frame [(1, 0x55#8), (2, 0xAA#8)] 0x0F#8 0x0F#8) = .ok zeroMsg ∧
    decodeFrame (registerMap 23) (frame [(23, 0x01#8)] 0x00#8 0x01#8) = .ok { zeroMsg with dir := 1, run := 1 } := by decide

/-! ## The Register Map as one record (R180), and another record in its place (R195) -/

/-- R180: the name, offset and width of each row. -/
theorem test_R180_one_byte_rows : (fun rm : RegisterMap =>
    [(rm.cfg.name, rm.cfg.offset, rm.cfg.width), (rm.mode.name, rm.mode.offset, rm.mode.width),
     (rm.run.name, rm.run.offset, rm.run.width)]) (registerMap 7) =
    [("config bits", 0, 1), ("mode", 22, 1), ("run state", 7, 1)] := by decide
theorem test_R180_enum_rules : (fun rm : RegisterMap => [rm.dir, rm.cyc].map fun e => (e.offset, e.width, e.rule.part, e.rule.labels))
    (registerMap 7) = [(23, 1, .lowNibble, ["Discharge", "Charge"]), (23, 1, .highNibble, ["Single", "Cycle"])] := by decide
theorem test_R180_two_byte_rows : (fun rm : RegisterMap => [rm.iout, rm.vout, rm.vin, rm.qout, rm.time].map fun e =>
      (e.name, e.offset, e.width, e.rule.decoding)) (registerMap 7) =
    [("Iout", 32, 2, .twoByteFixedFloat), ("Vout", 34, 2, .twoByteFixedFloat), ("Vin", 40, 2, .twoByteFixedFloat),
     ("charge-out", 42, 2, .twoByteScaledInt), ("charge-time", 68, 2, .twoByteScaledInt)] := by decide

/-- A Register Map of another variant, by data alone: Vin at 50 and a direction that is the high nibble with one label. -/
def variantMap : RegisterMap :=
  { registerMap 7 with
    vin := { name := "Vin", offset := 50, width := 2, rule := ⟨.twoByteScaledInt, "volts"⟩, width_eq := rfl, fits := by decide }
    dir := { name := "direction", offset := 23, width := 1, rule := ⟨.highNibble, ["Discharge"]⟩, width_eq := rfl, fits := by decide }
    dir_fits := by decide }

/-- `MemRead(50, 2)` is (3, 9), radix 100; the high nibble 1 is the first index without a label. -/
theorem test_R195_variant : decodeFrame variantMap (frame [(50, 3#8), (51, 9#8)] 0x00#8 0x0C#8) = .ok { zeroMsg with vinC := 309 } ∧
    decodeFrame variantMap (frame [(23, 0x10#8)] 0x01#8 0x00#8) = .outOfRange .dir 1#8 := by decide

/-! ## The result of a run (R136) -/

/-- S2, S15, S4, S16 in a row: three None and one error, of which the result lists the error alone. -/
theorem test_R136_run : (run (seeking [.byte 0x7D#8, .rdFail, .byte 0x7B#8, .rdFail])).1 = [.invalid (.readFailBody 0)] := by decide
/-- A candidate still open at the end has produced no output. -/
theorem test_R136_open : (run (seeking [.byte 0x7B#8, .byte 5#8])).1 = [] ∧
    (run (seeking [.byte 0x7B#8, .byte 5#8])).2.fsm = .readingBody := by decide

/-! ## The codes of R92, R94 and R95 -/

theorem test_codes : (ErrorEvent.endMismatch 0#8 fb).code = 1 ∧ (ErrorEvent.checksumMismatch 0#8 0#8 fb).code = 2 ∧
    (ErrorEvent.outOfRange .run 2#8 fb).code = 3 ∧ ErrorEvent.streamFatal.code = 4 ∧
    ErrorEvent.readFailEnd.subCause = some 2 ∧ (OutEvent.valid mb fb).code = 1#2 ∧ fieldCode .time = 9#4 := by decide

/-! ## Placing a word of the table (log entry 9) -/

theorem test_fetch_end : (step (State.reset.withFetchWord 16 0x087D) matches .next _) = true ∧
    decodeTableWord 16 0x087D = some .endFrame := by decide
theorem test_fetch_halted : positionAfter (State.reset.withFetchWord 16 0x1000) = some (.seekingStart, 0, true) := by decide
theorem test_fetch_field : positionAfter (State.reset.withFetchWord 8 0b0100) = some (.seekingStart, 0, false) := by decide

/-! ## Witnesses: for each statement with hypotheses, a state and operands that meet them all -/

theorem witness_inv_seeking : (seeking [.byte 0x7B#8]).Inv := by
  refine ⟨?_, ?_, ?_, ?_, ?_⟩ <;> first | decide | (unfold State.LiveCells; decide)

theorem witness_inv_reading : (reading 73 0#8 [.byte 0x31#8]).Inv := by
  refine ⟨?_, ?_, ?_, ?_, ?_⟩ <;> first | decide | (unfold State.LiveCells; decide)

theorem witness_inv_checking : (checking fb [.byte 0x7D#8]).Inv := by
  refine ⟨?_, ?_, ?_, ?_, ?_⟩ <;> first | decide | (unfold State.LiveCells; decide)

theorem witness_inv_halted : (stopped [.fatal]).Inv := by
  refine ⟨?_, ?_, ?_, ?_, ?_⟩ <;> first | decide | (unfold State.LiveCells; decide)

/-- The checking state of a frame holds it: a read at `i` finds the `i`-th byte. -/
theorem witness_holds (input : List InEvent) : (checking fb input).HoldsFrame fb := by
  show ∀ i : Fin 74, (checking fb []).cell i.val = some (fb.cell i)
  decide

/-- DecodeOfEncode, DecoderAcceptsOnlyEncodings: the boundary operands of SKIP and ENDMISS. -/
theorem witness_encode : (Instr.skip 0x7A#8).wf = true ∧ encode (.skip 0x7A#8) = some [0x7A#8, 0x00#8] ∧
    (Instr.endMiss 0x7E#8).wf = true ∧ encode (.endMiss 0x7E#8) = some [0x7E#8, 0x08#8] ∧
    encode .fTime = some [0x09#8] ∧ decodeBytes [0x7B#8, 0x08#8] = .ok (.endMiss 0x7B#8) ∧
    decodeBytes [0x09#8] = .ok .fTime := by
  refine ⟨rfl, rfl, rfl, rfl, rfl, rfl, rfl⟩

/-- SelectorMapFirstMatch: a word that decodes. -/
theorem witness_selector : decodeSelector 0x087D#13 = .ok .endFrame := rfl

/-- SkipDiscardsByte, StartOpensCandidate, IdleFailKeepsSeeking, NoiseIsRejected, CandidateTakes76Events, ValidNeedsWholeFrame: seeking. -/
theorem witness_seeking (input : List InEvent) : (seeking input).halted = false ∧ (seeking input).fsm = .seekingStart ∧
    (seeking input).input = input := ⟨rfl, rfl, rfl⟩

/-- SkipDiscardsByte and NoiseIsRejected: the bytes beside the start sentinel, and a failed read. -/
theorem witness_noise : (∀ ev ∈ [InEvent.byte 0x7A#8, .byte 0x7C#8], ∃ b, ev = .byte b ∧ b ≠ 0x7B#8) ∧
    (∀ ev ∈ [InEvent.byte 0x7A#8, .rdFail, .byte 0x7C#8], isNoise ev = true) := by
  constructor
  · intro ev h
    rcases List.mem_cons.1 h with rfl | h
    · exact ⟨_, rfl, by decide⟩
    · exact ⟨_, List.mem_singleton.1 h, by decide⟩
  · decide

/-- BodyStoresByte, AbortDiscardsCandidate: the first and the last cell. -/
theorem witness_reading : (reading 0 0#8 [.byte 5#8]).fsm = .readingBody ∧ (reading 0 0#8 [.byte 5#8]).cnt ≤ 73 ∧
    (reading 73 0#8 [.byte 5#8]).cnt ≤ 73 ∧ (reading 73 0#8 [.rdFail]).halted = false := by decide

/-- EndEmitsVerdict, EndMissDiscardsCandidate, AbortDiscardsCandidate, FatalHalts: checking. -/
theorem witness_checking (input : List InEvent) : (checking fb input).halted = false ∧ (checking fb input).fsm = .checkingEnd ∧
    (checking fb input).HoldsFrame fb ∧ (checking fb input).input = input := ⟨rfl, rfl, witness_holds input, rfl⟩

/-- HaltedIsIdentity and HaltedOnlyByFatal: halted with an event offered. -/
theorem witness_halted : (stopped [.fatal]).halted = true ∧ (stopped [.fatal]).input = [.fatal] := ⟨rfl, rfl⟩

/-- UnselectedOperationStops: START offered a failed read. -/
theorem witness_unselected : isStepOp .start = true ∧ selectOp false .seekingStart .rdFail ≠ .start := by decide

/-- ChecksumBlindSpots: two payloads in a different order, and trailers that differ in the high nibbles. -/
theorem witness_blind : (frame [(1, 5#8)] 0#8 5#8).payload.Perm (frame [(2, 5#8)] 0#8 5#8).payload ∧
    ((frame pa 0xF0#8 0xA1#8).cell 72).extractLsb' 0 4 = ((frame pa 0x00#8 0x01#8).cell 72).extractLsb' 0 4 ∧
    ((frame pa 0xF0#8 0xA1#8).cell 73).extractLsb' 0 4 = ((frame pa 0x00#8 0x01#8).cell 73).extractLsb' 0 4 := by decide

/-- BittTestsOneBit: the last bit. FixfIsExactHundredths: the last fraction byte. EnumRejectsFromLengthOn: both sides of the length. -/
theorem witness_codec : 7 < 8 ∧ (99#8).toNat ≤ 99 ∧ fixf 1#8 99#8 = fixf 1#8 99#8 ∧ (6#8).toNat < 7 ∧ 7 ≤ (7#8).toNat ∧
    fMode (registerMap 7) (frame [(22, 7#8)] 0#8 7#8) = .outOfRange := by decide

/-- ModeIsEnumOfSeven: the first mode without a label, with a good checksum. -/
theorem witness_mode : ckvfy (frame [(22, 7#8)] 0#8 7#8) = true ∧ 7 ≤ (frame [(22, 7#8)] 0#8 7#8).num 22 := by decide

/-- DirectionAndCycleNibbles and RunStateAtRunOff: the last label and the first value without one. -/
theorem witness_nibbles : (frame [(23, 0x11#8)] 0#8 0#8).num 23 % 16 ≤ 1 ∧ (frame [(23, 0x11#8)] 0#8 0#8).num 23 / 16 ≤ 1 ∧
    2 ≤ (frame [(23, 0x22#8)] 0#8 0#8).num 23 % 16 ∧ 2 ≤ (frame [(23, 0x22#8)] 0#8 0#8).num 23 / 16 ∧
    (frame [(7, 1#8)] 0#8 0#8).runNum 7 ≤ 1 ∧ 2 ≤ (frame [(7, 2#8)] 0#8 0#8).runNum 7 := by decide

/-- DecodeInOrder: a frame for each clause (S11, M7, M10, M11, M15, M2). -/
theorem witness_decode_clauses :
    (frame pb 0x30#8 0x32#8).payloadSum % 256 ≠ (frame pb 0x30#8 0x32#8).transmitted ∧
    ((frame [(22, 7#8)] 0#8 7#8).payloadSum % 256 = (frame [(22, 7#8)] 0#8 7#8).transmitted ∧
      7 ≤ (frame [(22, 7#8)] 0#8 7#8).num 22) ∧
    ((frame [(23, 0x12#8)] 1#8 2#8).payloadSum % 256 = (frame [(23, 0x12#8)] 1#8 2#8).transmitted ∧
      2 ≤ (frame [(23, 0x12#8)] 1#8 2#8).num 23 % 16) ∧
    ((frame [(23, 0x21#8)] 2#8 1#8).payloadSum % 256 = (frame [(23, 0x21#8)] 2#8 1#8).transmitted ∧
      (frame [(23, 0x21#8)] 2#8 1#8).num 23 % 16 ≤ 1 ∧ 2 ≤ (frame [(23, 0x21#8)] 2#8 1#8).num 23 / 16) ∧
    ((frame [(7, 2#8)] 0#8 2#8).payloadSum % 256 = (frame [(7, 2#8)] 0#8 2#8).transmitted ∧
      2 ≤ (frame [(7, 2#8)] 0#8 2#8).runNum 7) ∧
    (fb.payloadSum % 256 = fb.transmitted ∧ fb.num 22 ≤ 6 ∧ fb.num 23 % 16 ≤ 1 ∧ fb.num 23 / 16 ≤ 1 ∧ fb.runNum 7 ≤ 1) := by
  decide

/-- DecodeIsPure: the same frame in two states. -/
theorem witness_pure : (checking fb []).HoldsFrame fb ∧ (checking fb [.fatal]).HoldsFrame fb ∧
    (checking fb []).runOff = (checking fb [.fatal]).runOff := ⟨witness_holds _, witness_holds _, rfl⟩

/-- UnassignedCellsIgnored: two good frames that differ in cells 1 and 2 (M3, M25). -/
theorem witness_unassigned : ckvfy (frame [] 0#8 0#8) = true ∧ ckvfy (frame [(1, 0x55#8), (2, 0xAA#8)] 0x0F#8 0x0F#8) = true ∧
    (∀ i : Fin 72, i.val ∈ assignedCells ∨ i = 7 →
      (frame [] 0#8 0#8).byteAt i = (frame [(1, 0x55#8), (2, 0xAA#8)] 0x0F#8 0x0F#8).byteAt i) := by decide

/-- DecodeOfBuiltFrame: MB, whose payload is PB (95_test_vectors.md section 5). -/
theorem witness_built : mb.inRange = true ∧ (frame pb 0x00#8 0x01#8).bytes = payloadOf mb ++ trailerOf (payloadOf mb) := by decide

/-- RunOffAt23: M27 decodes. -/
theorem witness_runOff23 : decodeFrame (registerMap 23) (frame [(23, 0x01#8)] 0#8 1#8) = .ok { zeroMsg with dir := 1, run := 1 } := by
  decide

/-- FunctionsChangeOnlyAnswer, HaltedOnlyByFatal, RegisterMapImmutable, MemoryStaysCanonical: an operation that answers. -/
theorem witness_function : isStepOp .cksum = false ∧ (nextOf (exec .cksum (checking fb []))).isSome = true ∧
    Memory.wf (checking fb []).buf := by decide

/-- FrameFunctionsNeedLiveCells: one cell is missing. -/
theorem witness_dead : Instr.decode ∈ [Instr.cksum, .decode] ∧ 73 < 74 ∧ (reading 73 0#8 []).cell 73 = none := by decide

/-- StepOperationsMemoryFrame, OnlyBodyWritesCells: a BODY that answers and whose cell is live after it. -/
theorem witness_body : (nextOf (exec (.body 5#8) (reading 3 0#8 [.byte 5#8]))).bind (fun t => t.cell 3) = some 5#8 ∧
    (nextOf (exec .start (seeking [.byte 0x7B#8]))).isSome = true ∧
    (nextOf (exec (.skip 1#8) (seeking [.byte 1#8]))).isSome = true := by decide

/-- HaltedOnlyByFatal: FATAL sets the flag. -/
theorem witness_fatal : ((nextOf (exec .fatal (reading 3 0#8 [.fatal]))).map fun t => t.halted) = some true := by decide

/-- StepRunsDecoded, OneEventInOrder: an event offered, its operation, and the step's answer. -/
theorem witness_step : decodeSelector (selectorWord false .seekingStart (.byte 0x7B#8)) = .ok .start ∧
    (nextOf (step (seeking [.byte 0x7B#8, .rdFail]))).isSome = true ∧ (seeking []).input = [] := ⟨rfl, by decide, rfl⟩

/-- ResetStartsAfresh, CandidateTakes76Events: a wire frame offered. -/
theorem witness_wire : (seeking (wireFrame fb ++ [])).input = wireFrame fb ++ [] ∧
    (seeking (.byte 0x7B#8 :: (fb.bytes.map InEvent.byte ++ .byte 0x7B#8 :: []))).fsm = .seekingStart := ⟨rfl, rfl⟩

/-- StepKeepsInv, StepAlwaysAnswers, StepFollowsTransitionTable, RunEndsUsedUpOrHalted: a state that meets the invariants steps to another. -/
theorem witness_inv_step : (checking fb [.byte 0x7D#8]).Inv ∧ (nextOf (step (checking fb [.byte 0x7D#8]))).isSome = true :=
  ⟨witness_inv_checking, by decide⟩

/-- ErrorLeavesResetState, FailedCandidateLeavesNoTrace: two candidates that fail differently on the same stream behind them. -/
theorem witness_error : outAfter (reading 40 0#8 [.rdFail, .fatal]) = some (.invalid (.readFailBody 40)) ∧
    outAfter (checking fb [.byte 0#8, .fatal]) = some (.invalid (.endMismatch 0#8 fb)) ∧
    (reading 40 0#8 [.rdFail, .fatal]).input.tail = (checking fb [.byte 0#8, .fatal]).input.tail ∧
    ErrorEvent.readFailBody 40 ≠ .streamFatal ∧ ErrorEvent.endMismatch 0#8 fb ≠ .streamFatal ∧
    (reading 40 0#8 [.rdFail, .fatal]).runOff = (checking fb [.byte 0#8, .fatal]).runOff := by decide

/-- ValidOnlyFromEnd: a step that emits `Valid`. -/
theorem witness_valid : outAfter (checking fb [.byte 0x7D#8]) = some (.valid mb fb) := test_S10_end

/-- ValidNeedsWholeFrame: a run from seeking that emits `Valid` (P2), by the vectors' frame FB: its last step is S10. -/
theorem witness_run_valid : (runSteps 76 (seeking (wireFrame fb))).1.getLast? = some (.valid mb fb) := by decide

/-- DeadCellsDoNotMatter: two states that differ in a dead cell. -/
theorem witness_deadCells : ∀ a, a < 80 →
    ({ reading 3 0#8 [] with buf := (reading 3 0#8 []).buf ++ [(50, 9#8)] } : State).cell a = (reading 3 0#8 []).cell a := by decide

/-- RunListsVerdicts: a frame behind noise, noise behind it, and no candidate, the shortest and the longest left open. -/
theorem witness_run_lists : (∀ p ∈ [([InEvent.byte 0x7A#8, .rdFail], fb)], ∀ ev ∈ p.1, isNoise ev = true) ∧
    (∀ ev ∈ [InEvent.byte 0x7D#8], isNoise ev = true) ∧ (seeking []).cnt = 0 ∧ ([] : List Byte).length ≤ 74 ∧ fb.bytes.length ≤ 74 := by
  decide

/-- DecodeReadsMapCells: two good frames that differ in cells 40 and 41, which the variant does not name. -/
theorem witness_map_cells : ckvfy (frame [] 0#8 0#8) = true ∧ ckvfy (frame [(40, 1#8), (41, 2#8)] 0#8 3#8) = true ∧
    (∀ i : Fin 72, i.val ∈ variantMap.cells → (frame [] 0#8 0#8).byteAt i = (frame [(40, 1#8), (41, 2#8)] 0#8 3#8).byteAt i) := by
  decide

end Sys2Proof.Tests
end

section
/-! What a step takes from the input (R50): the event at the head, and nothing behind it. -/

namespace Sys2Proof.Machine

/-- Where an event is offered and `op` answers, it has consumed that event alone, and with any other events behind it `op` answers the
same state but for those events (R50). -/
def TakesHeadOnly (op : State → Host.Outcome State Fault Refusal) : Prop :=
  ∀ (s t : State) (ev : InEvent) (rest rest' : List InEvent), s.input = ev :: rest → op s = .next t →
    t.input = rest ∧ op { s with input := ev :: rest' } = .next { t with input := rest' }

/-- A total operation takes the head alone if, whatever the input holds, it drops the head and reads none of it. -/
theorem TakesHeadOnly.next {f : State → State} (hf : ∀ s l, f { s with input := l } = { f s with input := l.tail }) :
    TakesHeadOnly fun s => .next (f s) := by
  intro s t ev rest rest' hi h
  obtain rfl : f s = t := by simpa using h
  have hrest : (f s).input = s.input.tail := congrArg State.input (hf s s.input)
  exact ⟨by rw [hrest, hi, List.tail_cons], congrArg Host.Outcome.next (hf s (ev :: rest'))⟩

/-- The selection of an operation looks at the head of the input alone. -/
theorem State.selects_of_same_head {s : State} {ev : InEvent} {rest : List InEvent} (hi : s.input = ev :: rest) (i : Instr)
    (rest' : List InEvent) : ({ s with input := ev :: rest' } : State).selects i = s.selects i := by
  simp [State.selects, State.offered, hi]

/-- Running an operation only where it is selected keeps that it takes the head alone. -/
theorem TakesHeadOnly.whenSelected {k : State → Host.Outcome State Fault Refusal} (hk : TakesHeadOnly k) (i : Instr) :
    TakesHeadOnly fun s => whenSelected i s (k s) := by
  intro s t ev rest rest' hi h
  obtain ⟨hs, hks⟩ := whenSelected_eq_next h
  obtain ⟨hrest, hk'⟩ := hk s t ev rest rest' hi hks
  have hs' := (State.selects_of_same_head hi i rest').trans hs
  exact ⟨hrest, (whenSelected_of_selects hs').trans hk'⟩

/-- An operation that needs the frame in the buffer takes the head alone if it does so for every frame: no event is in the frame. -/
theorem TakesHeadOnly.withHeldFrame {k : RawFrame → State → State}
    (hk : ∀ f s l, k f { s with input := l } = { k f s with input := l.tail }) :
    TakesHeadOnly fun s => match s.frame? with
      | some f => .next (k f s)
      | none => .fault .deadCell := by
  intro s t ev rest rest' hi h
  have hframe : ({ s with input := ev :: rest' } : State).frame? = s.frame? := State.frame?_congr rfl rfl
  cases hf : s.frame? with
  | none => simp [hf] at h
  | some f =>
    have := TakesHeadOnly.next (hk f) s t ev rest rest' hi (by simpa [hf] using h)
    simpa [hframe, hf] using this

theorem execFatal_takesHeadOnly : TakesHeadOnly execFatal :=
  .whenSelected (.next fun _ _ => rfl) _

theorem execIdleFail_takesHeadOnly : TakesHeadOnly execIdleFail :=
  .whenSelected (.next fun _ _ => rfl) _

theorem execAbortB_takesHeadOnly : TakesHeadOnly execAbortB :=
  .whenSelected (.next fun _ _ => rfl) _

theorem execAbortE_takesHeadOnly : TakesHeadOnly execAbortE :=
  .whenSelected (.next fun _ _ => rfl) _

theorem execStart_takesHeadOnly : TakesHeadOnly execStart :=
  .whenSelected (.next fun _ _ => rfl) _

theorem execSkip_takesHeadOnly (b : Byte) : TakesHeadOnly (execSkip b) :=
  .whenSelected (.next fun _ _ => rfl) _

/-- Whether a byte can be stored, and where, depends on `cnt` alone. -/
theorem execBody_takesHeadOnly (b : Byte) : TakesHeadOnly (execBody b) := by
  refine .whenSelected (fun s t ev rest rest' hi h => ?_) _
  by_cases hc : s.cnt < 74
  · have hnext := TakesHeadOnly.next
      (f := fun u => ({ u.consume with buf := Memory.write u.buf u.cnt b } : State).advance.emit .none) fun _ _ => rfl
    have := hnext s t ev rest rest' hi (by simpa [State.memWrite, hc] using h)
    simpa [State.memWrite, hc] using this
  · simp [State.memWrite, hc] at h

theorem execEndFrame_takesHeadOnly : TakesHeadOnly execEndFrame :=
  .whenSelected (.withHeldFrame fun f s _ => by simp only [State.finish_eq]; rfl) _

theorem execEndMiss_takesHeadOnly (b : Byte) : TakesHeadOnly (execEndMiss b) :=
  .whenSelected (.withHeldFrame fun _ _ _ => rfl) _

/-- Every operation selected for a block that is not halted takes the head alone: R91's rows by event, state and sentinel. -/
theorem exec_selectOp_takesHeadOnly (f : Fsm) (ev : InEvent) : TakesHeadOnly (exec (selectOp false f ev)) := by
  cases ev with
  | fatal => exact execFatal_takesHeadOnly
  | rdFail =>
    cases f with
    | seekingStart => exact execIdleFail_takesHeadOnly
    | readingBody => exact execAbortB_takesHeadOnly
    | checkingEnd => exact execAbortE_takesHeadOnly
  | byte b =>
    cases f with
    | seekingStart =>
      by_cases hb : b = startSentinel
      · have hsel : selectOp false .seekingStart (.byte b) = .start := if_pos hb
        rw [hsel]
        exact execStart_takesHeadOnly
      · have hsel : selectOp false .seekingStart (.byte b) = .skip b := if_neg hb
        rw [hsel]
        exact execSkip_takesHeadOnly b
    | readingBody => exact execBody_takesHeadOnly b
    | checkingEnd =>
      by_cases hb : b = endSentinel
      · have hsel : selectOp false .checkingEnd (.byte b) = .endFrame := if_pos hb
        rw [hsel]
        exact execEndFrame_takesHeadOnly
      · have hsel : selectOp false .checkingEnd (.byte b) = .endMiss b := if_neg hb
        rw [hsel]
        exact execEndMiss_takesHeadOnly b

/-- Settles O45. A waiting step writes the output port alone; any other runs the operation selected, which looks at `halted`, `fsm` and
the event at the head and takes that event alone. -/
theorem oneEventInOrder : Obligations.OneEventInOrder := by
  refine ⟨fun s hi => ⟨.none, step_waits hi⟩, fun s t ev rest rest' hh hi h => ?_⟩
  have hop := exec_selectOp_takesHeadOnly s.fsm ev
  rw [← hh] at hop
  rw [step_selects hi] at h
  rw [step_selects (s := { s with input := ev :: rest' }) rfl]
  exact hop s t ev rest rest' hi h

end Sys2Proof.Machine
end

section
/-! SKIP, START and ENDMISS where the selector word selects them (R121, R122, R125). -/

namespace Sys2Proof.Machine

/-- A cell from `cnt` on is dead (R27). -/
theorem State.cell_eq_none {s : State} {a : Nat} (h : s.cnt ≤ a) : s.cell a = none :=
  if_neg (Nat.not_lt.2 h)

/-- SKIP on the byte offered consumes it and changes nothing else (R121). -/
theorem execSkip_offered {s : State} {b : Byte} {rest : List InEvent} (hh : s.halted = false) (hf : s.fsm = .seekingStart)
    (hi : s.input = .byte b :: rest) (hb : b ≠ startSentinel) : execSkip b s = .next { s with input := rest, out := .none } := by
  have hsel : s.selects (.skip b) = true := (State.selects_iff hi _).2 (by simp [hh, hf, selectOp, hb])
  refine (whenSelected_of_selects hsel).trans ?_
  simp [State.consume, State.emit, hi]

/-- A step met by a byte other than the start sentinel while seeking is SKIP. -/
theorem step_skips {s : State} {b : Byte} {rest : List InEvent} (hh : s.halted = false) (hf : s.fsm = .seekingStart)
    (hi : s.input = .byte b :: rest) (hb : b ≠ startSentinel) : step s = .next { s with input := rest, out := .none } := by
  have hop : selectOp s.halted s.fsm (.byte b) = .skip b := by simp [hh, hf, selectOp, hb]
  rw [step_selects hi, hop]
  exact execSkip_offered hh hf hi hb

/-- A run over bytes other than the start sentinel, from seeking, emits None at every step: SKIP leaves a state to which the same applies. -/
theorem runSteps_skips_emit_none (k : Nat) (s : State) (hh : s.halted = false) (hf : s.fsm = .seekingStart)
    (hbytes : ∀ ev ∈ s.input, ∃ b, ev = .byte b ∧ b ≠ startSentinel) : ∀ e ∈ (runSteps k s).1, e = .none := by
  induction k generalizing s with
  | zero => simp [runSteps]
  | succ k ih =>
    cases hi : s.input with
    | nil => simp [runSteps_of_input_nil _ hi]
    | cons ev rest =>
      rw [hi, List.forall_mem_cons] at hbytes
      obtain ⟨⟨b, rfl, hb⟩, hrest⟩ := hbytes
      rw [runSteps_cons k hh hi (step_skips hh hf hi hb)]
      exact List.forall_mem_cons.2 ⟨rfl, ih _ hh hf hrest⟩

/-- Settles O5. One SKIP by its selection; a run of them by induction on the steps. -/
theorem skipDiscardsByte : Obligations.SkipDiscardsByte :=
  ⟨fun _ _ _ hh hf hi hb => execSkip_offered hh hf hi hb, fun s k hh hf hbytes => runSteps_skips_emit_none k s hh hf hbytes⟩

/-- Settles O6. START is selected; `cnt` is 0 after it, so no cell is live. -/
theorem startOpensCandidate : Obligations.StartOpensCandidate := by
  intro s rest hh hf hi
  have hsel : s.selects .start = true := (State.selects_iff hi _).2 (by simp [hh, hf, selectOp, startSentinel])
  refine ⟨_, whenSelected_of_selects hsel, fun a => State.cell_eq_none (Nat.zero_le a), ?_⟩
  simp [State.consume, State.seek, State.emit, hi]

/-- Raising an error that is not fatal, all fields at once: the candidate is gone and the error is on the output port (R218). -/
theorem State.raise_eq {s : State} {e : ErrorEvent} (he : e ≠ .streamFatal) :
    s.raise e = { s with fsm := .seekingStart, cnt := 0, buf := [], out := .invalid e } := by
  have hfatal : e.isFatal = false := by
    cases e with
    | streamFatal => exact absurd rfl he
    | _ => rfl
  simp [State.raise, State.seek, State.emit, haltedAfter, hfatal]

/-- Settles O9. ENDMISS is selected for every byte but the end sentinel, the start sentinel too, and finds the frame in the buffer. -/
theorem endMissDiscardsCandidate : Obligations.EndMissDiscardsCandidate := by
  intro s f b rest hh hf hframe hi hb
  have hsel : s.selects (.endMiss b) = true := (State.selects_iff hi _).2 (by simp [hh, hf, selectOp, endSentinel, hb])
  have hexec : exec (.endMiss b) s = .next (s.consume.raise (.endMismatch b f)) := by
    refine (whenSelected_of_selects hsel).trans ?_
    rw [State.frame?_eq_some.2 hframe]
  refine ⟨_, hexec, fun a => State.cell_eq_none (Nat.zero_le a), ?_⟩
  simp [State.raise_eq, State.consume, hi]

end Sys2Proof.Machine
end

section
/-! What a run depends on: `fsm`, `cnt`, `halted`, the live cells, the configuration and the events to come (R20, R27, R28, R50). The output
port, the answer port and what a dead cell once held are read by no step operation. -/

namespace Sys2Proof.Machine

/-- The two states agree in all a step can read: the architectural state with its live cells, RUN_OFF and the events to come. -/
structure State.Alike (s s' : State) : Prop where
  fsm : s.fsm = s'.fsm
  cnt : s.cnt = s'.cnt
  halted : s.halted = s'.halted
  runOff : s.runOff = s'.runOff
  input : s.input = s'.input
  cell : ∀ a, s.cell a = s'.cell a

theorem State.Alike.symm {s s' : State} (h : s.Alike s') : s'.Alike s :=
  ⟨h.fsm.symm, h.cnt.symm, h.halted.symm, h.runOff.symm, h.input.symm, fun a => (h.cell a).symm⟩

/-- Seeking states with nothing stored are alike whatever the candidates before them were. -/
theorem State.Alike.of_seeking {s s' : State} (hf : s.fsm = .seekingStart) (hf' : s'.fsm = .seekingStart) (hc : s.cnt = 0)
    (hc' : s'.cnt = 0) (hh : s.halted = s'.halted) (hr : s.runOff = s'.runOff) (hi : s.input = s'.input) : s.Alike s' where
  fsm := hf.trans hf'.symm
  cnt := hc.trans hc'.symm
  halted := hh
  runOff := hr
  input := hi
  cell a := (State.cell_eq_none (by omega)).trans (State.cell_eq_none (by omega)).symm

theorem State.Alike.consume {s s' : State} (h : s.Alike s') : s.consume.Alike s'.consume :=
  ⟨h.fsm, h.cnt, h.halted, h.runOff, congrArg List.tail h.input, h.cell⟩

theorem State.Alike.emit {s s' : State} (h : s.Alike s') (e e' : OutEvent) : (s.emit e).Alike (s'.emit e') :=
  ⟨h.fsm, h.cnt, h.halted, h.runOff, h.input, h.cell⟩

theorem State.Alike.seek {s s' : State} (h : s.Alike s') : s.seek.Alike s'.seek :=
  .of_seeking rfl rfl rfl rfl h.halted h.runOff h.input

theorem State.Alike.raise {s s' : State} (h : s.Alike s') (e : ErrorEvent) : (s.raise e).Alike (s'.raise e) :=
  .of_seeking rfl rfl rfl rfl (congrArg (haltedAfter e) h.halted) h.runOff h.input

theorem State.Alike.withFsm {s s' : State} (h : s.Alike s') (f : Fsm) :
    ({ s with fsm := f } : State).Alike { s' with fsm := f } :=
  ⟨rfl, h.cnt, h.halted, h.runOff, h.input, h.cell⟩

/-- The cells after BODY: the byte stored at `cnt`, below it the cells there were, and none above (R123). -/
theorem State.cell_store (s : State) (b : Byte) (a : Nat) :
    ({ s with buf := Memory.write s.buf s.cnt b } : State).advance.cell a = if a = s.cnt then some b else s.cell a := by
  by_cases ha : a = s.cnt
  · subst ha
    simp [State.cell, Memory.read_write_same]
  · have hlt : a < s.cnt + 1 ↔ a < s.cnt := by omega
    simp [State.cell, ha, hlt, Memory.read_write_other _ _ ha]

theorem State.Alike.store {s s' : State} (h : s.Alike s') (b : Byte) :
    ({ s with buf := Memory.write s.buf s.cnt b } : State).advance.Alike
      ({ s' with buf := Memory.write s'.buf s'.cnt b } : State).advance where
  fsm := by simp [h.fsm, h.cnt]
  cnt := by simp [h.cnt]
  halted := h.halted
  runOff := h.runOff
  input := h.input
  cell a := by rw [State.cell_store, State.cell_store, h.cnt, h.cell]

/-- The frame in the buffer is made of live cells. -/
theorem State.Alike.frame? {s s' : State} (h : s.Alike s') : s.frame? = s'.frame? := by
  simp [State.frame?, State.cellsFrom_congr h.cell]

/-- The same operation is selected. -/
theorem State.Alike.selects {s s' : State} (h : s.Alike s') (i : Instr) : s.selects i = s'.selects i := by
  simp [State.selects, State.offered, h.fsm, h.halted, h.input]

/-- From alike states `op` answers alike states with the same output event, or none from either. -/
def RespectsAlike (op : State → Host.Outcome State Fault Refusal) : Prop :=
  ∀ (s s' t : State), s.Alike s' → op s = .next t → ∃ t', op s' = .next t' ∧ t.Alike t' ∧ t.out = t'.out

theorem RespectsAlike.next {f : State → State} (hf : ∀ s s', s.Alike s' → (f s).Alike (f s') ∧ (f s).out = (f s').out) :
    RespectsAlike fun s => .next (f s) := by
  intro s s' t h hs
  obtain rfl : f s = t := by simpa using hs
  exact ⟨f s', rfl, hf s s' h⟩

theorem RespectsAlike.whenSelected {k : State → Host.Outcome State Fault Refusal} (hk : RespectsAlike k) (i : Instr) :
    RespectsAlike fun s => whenSelected i s (k s) := by
  intro s s' t h hs
  obtain ⟨hsel, hks⟩ := whenSelected_eq_next hs
  obtain ⟨t', hks', ht⟩ := hk s s' t h hks
  exact ⟨t', (whenSelected_of_selects ((h.selects i).symm.trans hsel)).trans hks', ht⟩

/-- An operation that needs the frame in the buffer respects alikeness if it does so for every frame. -/
theorem RespectsAlike.withHeldFrame {k : RawFrame → State → State}
    (hk : ∀ f s s', s.Alike s' → (k f s).Alike (k f s') ∧ (k f s).out = (k f s').out) :
    RespectsAlike fun s => match s.frame? with
      | some f => .next (k f s)
      | none => .fault .deadCell := by
  intro s s' t h hs
  cases hf : s.frame? with
  | none => simp [hf] at hs
  | some f =>
    have := RespectsAlike.next (hk f) s s' t h (by simpa [hf] using hs)
    simpa [← h.frame?, hf] using this

/-- BODY looks at `cnt` and at no cell. -/
theorem execBody_respectsAlike (b : Byte) : RespectsAlike (execBody b) := by
  refine .whenSelected (fun s s' t h hs => ?_) _
  by_cases hc : s.cnt < 74
  · have hc' : s'.cnt < 74 := h.cnt ▸ hc
    have := RespectsAlike.next (f := fun u => ({ u.consume with buf := Memory.write u.buf u.cnt b } : State).advance.emit .none)
      (fun u u' hu => ⟨(hu.consume.store b).emit _ _, rfl⟩) s s' t h (by simpa [State.memWrite, hc] using hs)
    simpa [State.memWrite, hc'] using this
  · simp [State.memWrite, hc] at hs

/-- END looks at the frame and RUN_OFF (R124). -/
theorem execEndFrame_respectsAlike : RespectsAlike execEndFrame :=
  .whenSelected (.withHeldFrame fun f s s' h => by
    simp only [State.finish_eq, h.runOff]
    exact ⟨h.consume.seek.emit _ _, rfl⟩) _

/-- Every step operation looks at no port and no dead cell. -/
theorem exec_respectsAlike {i : Instr} (hi : isStepOp i = true) : RespectsAlike (exec i) := by
  cases i with
  | halted => exact .whenSelected (.next fun _ _ h => ⟨h.emit _ _, rfl⟩) _
  | fatal => exact .whenSelected (.next fun _ _ h => ⟨h.consume.raise _, rfl⟩) _
  | idleFail => exact .whenSelected (.next fun _ _ h => ⟨h.consume.emit _ _, rfl⟩) _
  | abortB => exact .whenSelected (.next fun s s' h => by rw [h.cnt]; exact ⟨h.consume.raise _, rfl⟩) _
  | abortE => exact .whenSelected (.next fun _ _ h => ⟨h.consume.raise _, rfl⟩) _
  | start => exact .whenSelected (.next fun _ _ h => ⟨(h.consume.seek.emit _ _).withFsm _, rfl⟩) _
  | skip b => exact .whenSelected (.next fun _ _ h => ⟨h.consume.emit _ _, rfl⟩) _
  | body b => exact execBody_respectsAlike b
  | endFrame => exact execEndFrame_respectsAlike
  | endMiss b => exact .whenSelected (.withHeldFrame fun f _ _ h => ⟨h.consume.raise (.endMismatch b f), rfl⟩) _
  | _ => cases hi

theorem step_respectsAlike : RespectsAlike step := by
  intro s s' t h hs
  obtain ⟨hi, rfl⟩ | ⟨ev, rest, hi, hexec⟩ := step_next hs
  · exact ⟨s'.wait, step_waits (h.input ▸ hi), h.emit _ _, rfl⟩
  · rw [step_selects (h.input ▸ hi), ← h.halted, ← h.fsm]
    exact exec_respectsAlike (selectOp_isStepOp _ _ _) s s' t h hexec

/-- A run goes no further where `step` answers no next state. -/
theorem runSteps_of_no_next {s : State} (k : Nat) (h : ∀ t, step s ≠ .next t) : runSteps k s = ([], s) := by
  cases k with
  | zero => rfl
  | succ k =>
    cases hs : step s with
    | next t => exact absurd hs (h t)
    | fault x => simp [runSteps, hs]
    | refused x => simp [runSteps, hs]

/-- Runs of any length from alike states bring out the same events: they stop together, and after each step they are alike again. -/
theorem State.Alike.runSteps_eq {s s' : State} (h : s.Alike s') (k : Nat) : (runSteps k s).1 = (runSteps k s').1 := by
  induction k generalizing s s' with
  | zero => rfl
  | succ k ih =>
    by_cases hnext : ∃ t, step s = .next t
    · obtain ⟨t, hs⟩ := hnext
      obtain ⟨t', hs', ht, hout⟩ := step_respectsAlike s s' t h hs
      simp only [runSteps, hs, hs', h.halted, h.input]
      split
      · rfl
      · simp [hout, ih ht]
    · have hnext' : ∀ t', step s' ≠ .next t' := fun t' hs' =>
        have ⟨t, hs, _⟩ := step_respectsAlike s' s t' h.symm hs'
        hnext ⟨t, hs⟩
      rw [runSteps_of_no_next _ (not_exists.1 hnext), runSteps_of_no_next _ hnext']

end Sys2Proof.Machine
end

section
/-! A failed candidate (R133, R218): every step that emits `Invalid` raises that error, and two such steps leave states that are alike. -/

namespace Sys2Proof.Machine

/-- Raising an error is known by the event emitted. -/
theorem State.raise_eq_of_out {s : State} {e e' : ErrorEvent} (h : (s.raise e').out = .invalid e) : s.raise e' = s.raise e := by
  rw [OutEvent.invalid.inj h]

/-- Where END emits `Invalid` it has raised that error. -/
theorem State.finish_eq_raise {s : State} {f : RawFrame} {r : DecodeResult} {e : ErrorEvent} (h : (s.finish f r).out = .invalid e) :
    s.finish f r = s.raise e := by
  cases r with
  | ok msg => cases h
  | checksumMismatch c t => exact State.raise_eq_of_out h
  | outOfRange fid v => exact State.raise_eq_of_out h

/-- A step operation that emits `Invalid` has consumed the event offered and raised the error; HALTED never does. -/
theorem exec_invalid {i : Instr} {s t : State} {e : ErrorEvent} (hi : isStepOp i = true) (h : exec i s = .next t)
    (he : t.out = .invalid e) : i ≠ .halted ∧ t = s.consume.raise e := by
  cases i with
  | halted => obtain ⟨-, rfl⟩ := execHalted_next h; cases he
  | fatal => obtain ⟨-, rfl⟩ := execFatal_next h; exact ⟨nofun, State.raise_eq_of_out he⟩
  | idleFail => obtain ⟨-, rfl⟩ := execIdleFail_next h; cases he
  | abortB => obtain ⟨-, rfl⟩ := execAbortB_next h; exact ⟨nofun, State.raise_eq_of_out he⟩
  | abortE => obtain ⟨-, rfl⟩ := execAbortE_next h; exact ⟨nofun, State.raise_eq_of_out he⟩
  | start => obtain ⟨-, rfl⟩ := execStart_next h; cases he
  | skip b => obtain ⟨-, rfl⟩ := execSkip_next h; cases he
  | body b => obtain ⟨-, -, rfl⟩ := execBody_next h; cases he
  | endFrame => obtain ⟨-, f, -, rfl⟩ := execEndFrame_next h; exact ⟨nofun, State.finish_eq_raise he⟩
  | endMiss b => obtain ⟨-, f, -, rfl⟩ := execEndMiss_next h; exact ⟨nofun, State.raise_eq_of_out he⟩
  | _ => cases hi

/-- A step that emits `Invalid` is made by a block that is not halted; it consumes the event that revealed the error and raises it (R218). -/
theorem step_invalid {s t : State} {e : ErrorEvent} (h : step s = .next t) (he : t.out = .invalid e) :
    s.halted = false ∧ t = s.consume.raise e := by
  obtain ⟨-, rfl⟩ | ⟨ev, rest, -, hexec⟩ := step_next h
  · cases he
  · obtain ⟨hne, ht⟩ := exec_invalid (selectOp_isStepOp _ _ _) hexec he
    exact ⟨not_halted_of_selectOp rfl hne, ht⟩

/-- Settles O56. Each error leaves the block seeking with nothing stored and not halted, so the two states differ in their ports alone, and runs
from alike states bring out the same events. -/
theorem failedCandidateLeavesNoTrace : Obligations.FailedCandidateLeavesNoTrace := by
  intro s s' t t' e e' k hs hs' hout hout' he he' hr hi
  obtain ⟨hh, rfl⟩ := step_invalid hs hout
  obtain ⟨hh', rfl⟩ := step_invalid hs' hout'
  have hlive : (s.consume.raise e).halted = (s'.consume.raise e').halted := by simp [State.raise_eq, he, he', hh, hh']
  have halike : (s.consume.raise e).Alike (s'.consume.raise e') := .of_seeking rfl rfl rfl rfl hlive hr hi
  exact ⟨rfl, rfl, halike.runSteps_eq k⟩

end Sys2Proof.Machine
end

section
/-! The Checksum Unit on the frame in the buffer: CKSUM and CKVFY (R150, R152). -/

namespace Sys2Proof.Machine

/-- The payload as numbers, cell by cell (R81). -/
theorem RawFrame.map_toNat_payload (f : RawFrame) :
    f.payload.map BitVec.toNat = List.ofFn fun i : Fin 72 => f.num ⟨i.val, by omega⟩ := by
  have hlen : f.payload.length = 72 := by simp [RawFrame.payload, f.length_eq, Config.payloadLen, Config.frameLen]
  refine List.ext_getElem (by rw [List.length_map, hlen, List.length_ofFn]) fun i _ _ => ?_
  rw [List.getElem_ofFn]
  simp [RawFrame.payload, RawFrame.num, RawFrame.cell]

/-- CKSUM as a number: its 8 bits hold the exact sum modulo 256 (R150). -/
theorem toNat_cksum (f : RawFrame) : (cksum f).toNat = f.payloadSum % 256 := by
  rw [cksum, BitVec.toNat_ofNat, f.map_toNat_payload, List.sum_ofFn, RawFrame.payloadSum]

/-- CKVFY compares the two bytes (R152). -/
theorem ckvfy_iff (f : RawFrame) : ckvfy f = true ↔ cksum f = ckext f := beq_iff_eq

/-- CKSUM answers for the frame in the buffer. -/
theorem exec_cksum_of_holds {s : State} {f : RawFrame} (h : s.HoldsFrame f) :
    exec .cksum s = .next { s with fout := .byte (cksum f) } := withFrame_of_holds h _

/-- CKEXT answers for the frame in the buffer. -/
theorem exec_ckext_of_holds {s : State} {f : RawFrame} (h : s.HoldsFrame f) :
    exec .ckext s = .next { s with fout := .byte (ckext f) } := withFrame_of_holds h _

/-- CKVFY answers for the frame in the buffer. -/
theorem exec_ckvfy_of_holds {s : State} {f : RawFrame} (h : s.HoldsFrame f) :
    exec .ckvfy s = .next { s with fout := .verdict (ckvfy f) } := withFrame_of_holds h _

/-- Settles O15. CKSUM's byte, read as a number, is the sum modulo 256. -/
theorem cksumIsSumMod256 : Obligations.CksumIsSumMod256 :=
  fun _ f h => ⟨cksum f, exec_cksum_of_holds h, toNat_cksum f⟩

/-- Settles O17. The three functions read the same frame, and CKVFY's bit is the comparison of the other two answers. -/
theorem ckvfyComparesBoth : Obligations.CkvfyComparesBoth :=
  fun _ f h => ⟨ckvfy f, cksum f, ckext f, exec_ckvfy_of_holds h, exec_cksum_of_holds h, exec_ckext_of_holds h, ckvfy_iff f⟩

end Sys2Proof.Machine
end

section
/-! The Field Codec primitives (R160 to R166): each computed value as a number, and DECODE's `Ok` needs all four indices in range (R191). -/

namespace Sys2Proof.Machine

/-- ENUM answers on the function port alone (R170). -/
theorem exec_enumLookup (v : Byte) (n : Nat) (s : State) :
    exec (.enumLookup v n) s = .next { s with fout := .enumerated (enumLookup v n) } := rfl

/-- NIBLO as a number (R163). -/
theorem toNat_niblo (b : Byte) : (niblo b).toNat = b.toNat % 16 := by
  rw [niblo, BitVec.extractLsb'_toNat, Nat.shiftRight_zero]

/-- NIBHI as a number: a byte shifted right by 4 already fits a nibble (R164). -/
theorem toNat_nibhi (b : Byte) : (nibhi b).toNat = b.toNat / 16 := by
  have hb := b.isLt
  rw [nibhi, BitVec.extractLsb'_toNat, Nat.shiftRight_eq_div_pow]
  omega

/-- BITT with the mask of one bit answers that bit: the conjunction is the mask itself or 0 (R165). -/
theorem bitt_eq_one_iff (b : Byte) {k : Nat} (hk : k < 8) : bitt b (1#8 <<< k) = 1#1 ↔ b.getLsbD k = true := by
  have hmask : BitVec.twoPow 8 k ≠ 0#8 := fun h => by
    have hbit := congrArg (BitVec.getLsbD · k) h
    simp [hk] at hbit
  rw [bitt, ← BitVec.twoPow_eq, BitVec.and_twoPow]
  cases b.getLsbD k with
  | true => simp [hmask]
  | false => simp

/-- Radix 100 as a number: neither the product nor the sum wraps in 16 bits (R167). -/
theorem toNat_radix100 (b0 b1 : Byte) : (radix100 b0 b1).toNat = b0.toNat * 100 + b1.toNat := by
  have h0 := b0.isLt
  have h1 := b1.isLt
  rw [radix100, BitVec.toNat_add, BitVec.toNat_mul, BitVec.toNat_setWidth, BitVec.toNat_setWidth, BitVec.toNat_ofNat]
  omega

/-- ENUM below the length (R166). -/
theorem enumLookup_of_lt {v : Byte} {n : Nat} (h : v.toNat < n) : enumLookup v n = .ok v :=
  if_neg (Nat.not_le.2 h)

/-- ENUM from the length on (R166). -/
theorem enumLookup_of_le {v : Byte} {n : Nat} (h : n ≤ v.toNat) : enumLookup v n = .outOfRange :=
  if_pos h

/-- All that DECODE's `Ok` says: the checksum agrees, the four indices are in range, and the Message is built from them (R191). -/
theorem decodeFrame_eq_ok {rm : RegisterMap} {f : RawFrame} {m : Message} (h : decodeFrame rm f = .ok m) :
    ckvfy f = true ∧ ∃ mode dir cyc run, fMode rm f = .ok mode ∧ fDir rm f = .ok dir ∧ fCyc rm f = .ok cyc ∧
      fRun rm f = .ok run ∧ m = buildMessage rm f mode dir cyc run := by
  unfold decodeFrame at h
  split at h
  · rename_i hck
    split at h
    case h_5 mode dir cyc run hmode hdir hcyc hrun =>
      exact ⟨hck, mode, dir, cyc, run, hmode, hdir, hcyc, hrun, (DecodeResult.ok.inj h).symm⟩
    all_goals cases h
  · cases h

/-- Settles O25. ENUM by its two cases; an `Ok` of DECODE would have all four enum fields in range. -/
theorem enumRejectsFromLengthOn : Obligations.EnumRejectsFromLengthOn := by
  refine ⟨fun s v n => ⟨fun h => ?_, fun h => ?_⟩, fun rm f hout m hm => ?_⟩
  · rw [exec_enumLookup, enumLookup_of_lt h]
  · rw [exec_enumLookup, enumLookup_of_le h]
  · obtain ⟨-, mode, dir, cyc, run, hmode, hdir, hcyc, hrun, -⟩ := decodeFrame_eq_ok hm
    simp [hmode, hdir, hcyc, hrun] at hout

/-- Settles O21. The byte as it stands, and its two nibbles as remainder and quotient by 16. -/
theorem byteAndNibbles : Obligations.ByteAndNibbles :=
  fun _ b => ⟨rfl, ⟨niblo b, rfl, toNat_niblo b⟩, ⟨nibhi b, rfl, toNat_nibhi b⟩⟩

/-- Settles O22. BITT's bit is the bit its mask selects. -/
theorem bittTestsOneBit : Obligations.BittTestsOneBit :=
  fun _ b k hk => ⟨bitt b (1#8 <<< k), rfl, bitt_eq_one_iff b hk⟩

/-- Settles O23. Both operations answer radix 100 of the bytes, which two bytes of 255 bound. -/
theorem scliIsRadix100 : Obligations.ScliIsRadix100 := by
  intro _ b0 b1
  have hbound : (radix100 b0 b1).toNat ≤ 25755 := by
    have h0 := b0.isLt
    have h1 := b1.isLt
    rw [toNat_radix100]
    omega
  exact ⟨radix100 b0 b1, rfl, toNat_radix100 b0 b1, hbound, rfl⟩

end Sys2Proof.Machine
end

section
/-! The field operations on the frame in the buffer (R180): the mode, and the two-byte numbers. -/

namespace Sys2Proof.Machine

/-- F.MODE looks cell 22 up among seven labels (R182). -/
theorem fMode_registerMap (r : RunOff) (f : RawFrame) :
    fMode (registerMap r) f = if f.num 22 ≤ 6 then .ok (f.cell 22) else .outOfRange := by
  split
  case isTrue h => exact enumField_of_lt (Nat.lt_succ_of_le h)
  case isFalse h => exact enumField_of_le (Nat.lt_of_not_le h)

/-- DECODE checks the mode before any other field (R191). -/
theorem decodeFrame_of_fMode_outOfRange {rm : RegisterMap} {f : RawFrame} (hck : ckvfy f = true) (hmode : fMode rm f = .outOfRange) :
    decodeFrame rm f = .outOfRange .mode (enumValue rm.mode f) := by
  simp [decodeFrame, hck, hmode]

/-- An entry lies inside the payload, so `hundreds` is defined at its offset (R61). -/
theorem MapEntry.offset_lt {w : Nat} {R : Type} (e : MapEntry w R) : e.offset < 73 :=
  Nat.lt_succ_of_le (Nat.le_of_add_right_le e.fits)

/-- A two-byte field as a number: radix 100 of the bytes at its offset and the next, under either decoding rule (R53, R88). -/
theorem toNat_numberField (e : MapEntry 2 NumberRule) (f : RawFrame) :
    (numberField e f).toNat = f.hundreds ⟨e.offset, e.offset_lt⟩ := by
  rw [numberField_eq, toNat_radix100]
  rfl

/-- The largest two-byte field is two bytes of 255 (R88). -/
theorem RawFrame.hundreds_le (f : RawFrame) (i : Fin 73) : f.hundreds i ≤ 25755 := by
  have h0 : f.num ⟨i.val, by omega⟩ < 256 := (f.cell _).isLt
  have h1 : f.num ⟨i.val + 1, by omega⟩ < 256 := (f.cell _).isLt
  rw [RawFrame.hundreds]
  omega

/-- An operation that evaluates a two-byte field of the frame in the buffer answers that number and changes nothing else. -/
theorem withFrame_numberField_of_holds {s : State} {f : RawFrame} (h : s.HoldsFrame f) (e : MapEntry 2 NumberRule) :
    ∃ v : U16, withFrame s (fun g => .word (numberField e g)) = .next { s with fout := .word v } ∧
      v.toNat = f.hundreds ⟨e.offset, e.offset_lt⟩ ∧ v.toNat ≤ 25755 :=
  ⟨numberField e f, withFrame_of_holds h _, toNat_numberField e f, toNat_numberField e f ▸ f.hundreds_le _⟩

/-- Settles O27. F.MODE by the two sides of its table's length; out of range, it is the field DECODE names. -/
theorem modeIsEnumOfSeven : Obligations.ModeIsEnumOfSeven := by
  refine ⟨fun s f h => ?_, fun r f hck h => ?_⟩
  · rw [← fMode_registerMap s.runOff f]
    exact withFrame_of_holds h _
  · have hmode : fMode (registerMap r) f = .outOfRange := by
      rw [fMode_registerMap, if_neg (Nat.not_le.2 h)]
    exact decodeFrame_of_fMode_outOfRange hck hmode

/-- Settles O30. The three entries stand at offsets 32, 34 and 40. -/
theorem fixedFieldsInHundredths : Obligations.FixedFieldsInHundredths := fun s _ h =>
  have hnumber := withFrame_numberField_of_holds h
  ⟨hnumber (registerMap s.runOff).iout, hnumber (registerMap s.runOff).vout, hnumber (registerMap s.runOff).vin⟩

/-- Settles O31. The two entries stand at offsets 42 and 68. -/
theorem scaledFieldsInUnits : Obligations.ScaledFieldsInUnits := fun s _ h =>
  have hnumber := withFrame_numberField_of_holds h
  ⟨hnumber (registerMap s.runOff).qout, hnumber (registerMap s.runOff).time⟩

end Sys2Proof.Machine
end

section
/-! The step operations where the selector word selects them, and from them the one relation a step of a running block is: the rows of the
transition table (R122 to R130). -/

namespace Sys2Proof.Machine

/-- BODY selected with a free cell left stores the byte there (R123). -/
theorem execBody_of_selects {s : State} {b : Byte} (hsel : s.selects (.body b) = true) (hc : s.cnt < 74) :
    execBody b s = .next (({ s.consume with buf := Memory.write s.buf s.cnt b } : State).advance.emit .none) :=
  (whenSelected_of_selects hsel).trans (by simp [State.memWrite, hc])

/-- END selected with a frame in the buffer seeks again and emits DECODE's verdict (R124). -/
theorem execEndFrame_of_selects {s : State} {f : RawFrame} (hsel : s.selects .endFrame = true) (hframe : s.HoldsFrame f) :
    execEndFrame s = .next (s.consume.seek.emit (verdictOf f (decodeFrame (registerMap s.runOff) f))) := by
  refine (whenSelected_of_selects hsel).trans ?_
  rw [State.frame?_eq_some.2 hframe, ← State.finish_eq]

/-- ENDMISS selected with a frame in the buffer raises the mismatch (R125). -/
theorem execEndMiss_of_selects {s : State} {f : RawFrame} {b : Byte} (hsel : s.selects (.endMiss b) = true)
    (hframe : s.HoldsFrame f) : execEndMiss b s = .next (s.consume.raise (.endMismatch b f)) := by
  refine (whenSelected_of_selects hsel).trans ?_
  rw [State.frame?_eq_some.2 hframe]

/-- The rows of the transition table for a block that is not halted: the event offered, what must hold, and the state after (R130). -/
inductive StepRow (s : State) : InEvent → State → Prop
  | noise {ev : InEvent} (hf : s.fsm = .seekingStart) (hev : isNoise ev = true) : StepRow s ev (s.consume.emit .none)
  | start (hf : s.fsm = .seekingStart) :
      StepRow s (.byte startSentinel) { s.consume.seek.emit .none with fsm := .readingBody }
  | body {b : Byte} (hf : s.fsm = .readingBody) (hc : s.cnt < 74) :
      StepRow s (.byte b) (({ s.consume with buf := Memory.write s.buf s.cnt b } : State).advance.emit .none)
  | endFrame {f : RawFrame} (hf : s.fsm = .checkingEnd) (hframe : s.HoldsFrame f) :
      StepRow s (.byte endSentinel) (s.consume.seek.emit (verdictOf f (decodeFrame (registerMap s.runOff) f)))
  | endMiss {f : RawFrame} {b : Byte} (hf : s.fsm = .checkingEnd) (hframe : s.HoldsFrame f) (hb : b ≠ endSentinel) :
      StepRow s (.byte b) (s.consume.raise (.endMismatch b f))
  | abortB (hf : s.fsm = .readingBody) : StepRow s .rdFail (s.consume.raise (.readFailBody s.cnt))
  | abortE (hf : s.fsm = .checkingEnd) : StepRow s .rdFail (s.consume.raise .readFailEnd)
  | fatal : StepRow s .fatal (s.consume.raise .streamFatal)

/-- A byte other than the start sentinel selects SKIP while seeking (R91 row 7). -/
theorem selectOp_skip {b : Byte} (hb : b ≠ startSentinel) : selectOp false .seekingStart (.byte b) = .skip b :=
  if_neg hb

/-- A byte other than the end sentinel selects ENDMISS at the end of a candidate (R91 row 10). -/
theorem selectOp_endMiss {b : Byte} (hb : b ≠ endSentinel) : selectOp false .checkingEnd (.byte b) = .endMiss b :=
  if_neg hb

/-- A step that runs a selected operation. -/
theorem step_of_selectOp {s t : State} {ev : InEvent} {rest : List InEvent} {i : Instr} (hi : s.input = ev :: rest)
    (hop : selectOp s.halted s.fsm ev = i) (h : s.selects i = true → exec i s = .next t) : step s = .next t := by
  rw [step_selects hi, hop]
  exact h ((State.selects_iff hi i).2 hop)

/-- Every row of the table is a step. -/
theorem StepRow.step_eq {s t : State} {ev : InEvent} {rest : List InEvent} (h : StepRow s ev t) (hh : s.halted = false)
    (hi : s.input = ev :: rest) : step s = .next t := by
  cases h with
  | noise hf hev =>
    cases ev with
    | byte b =>
      have hb : b ≠ startSentinel := by simpa [isNoise] using hev
      exact step_of_selectOp hi (i := .skip b) (by simp [hh, hf, selectOp_skip hb]) whenSelected_of_selects
    | rdFail => exact step_of_selectOp hi (i := .idleFail) (by simp [hh, hf, selectOp]) whenSelected_of_selects
    | fatal => cases hev
  | start hf => exact step_of_selectOp hi (i := .start) (by simp [hh, hf, selectOp]) whenSelected_of_selects
  | body hf hc => exact step_of_selectOp hi (by simp [hh, hf, selectOp]) (execBody_of_selects · hc)
  | endFrame hf hframe => exact step_of_selectOp hi (i := .endFrame) (by simp [hh, hf, selectOp]) (execEndFrame_of_selects · hframe)
  | endMiss hf hframe hb => exact step_of_selectOp hi (by simp [hh, hf, selectOp_endMiss hb]) (execEndMiss_of_selects · hframe)
  | abortB hf => exact step_of_selectOp hi (i := .abortB) (by simp [hh, hf, selectOp]) whenSelected_of_selects
  | abortE hf => exact step_of_selectOp hi (i := .abortE) (by simp [hh, hf, selectOp]) whenSelected_of_selects
  | fatal => exact step_of_selectOp hi (i := .fatal) (by simp [hh, selectOp]) whenSelected_of_selects

/-- Every step of a block that is not halted is a row of the table. -/
theorem stepRow_of_step {s t : State} {ev : InEvent} {rest : List InEvent} (hh : s.halted = false) (hi : s.input = ev :: rest)
    (h : step s = .next t) : StepRow s ev t := by
  rw [step_selects hi, hh] at h
  cases ev with
  | fatal => obtain ⟨-, rfl⟩ := execFatal_next h; exact .fatal
  | rdFail =>
    cases hf : s.fsm with
    | seekingStart => rw [hf] at h; obtain ⟨-, rfl⟩ := execIdleFail_next h; exact .noise hf rfl
    | readingBody => rw [hf] at h; obtain ⟨-, rfl⟩ := execAbortB_next h; exact .abortB hf
    | checkingEnd => rw [hf] at h; obtain ⟨-, rfl⟩ := execAbortE_next h; exact .abortE hf
  | byte b =>
    cases hf : s.fsm with
    | seekingStart =>
      rw [hf] at h
      by_cases hb : b = startSentinel
      · subst hb; obtain ⟨-, rfl⟩ := execStart_next h; exact .start hf
      · rw [selectOp_skip hb] at h; obtain ⟨-, rfl⟩ := execSkip_next h; exact .noise hf (bne_iff_ne.2 hb)
    | readingBody => rw [hf] at h; obtain ⟨-, hc, rfl⟩ := execBody_next h; exact .body hf hc
    | checkingEnd =>
      rw [hf] at h
      by_cases hb : b = endSentinel
      · subst hb; obtain ⟨-, f, hframe, rfl⟩ := execEndFrame_next h; rw [State.finish_eq]; exact .endFrame hf hframe
      · rw [selectOp_endMiss hb] at h; obtain ⟨-, f, hframe, rfl⟩ := execEndMiss_next h; exact .endMiss hf hframe hb

end Sys2Proof.Machine
end

section
/-! The invariants of R24 along the steps, and the transition table as what a step does from every state that meets them (R24, R130). -/

namespace Sys2Proof.Machine

/-- A halted block takes the identity step (R129). -/
theorem step_halted {s : State} {ev : InEvent} {rest : List InEvent} (hh : s.halted = true) (hi : s.input = ev :: rest) :
    step s = .next (s.emit .none) :=
  step_of_selectOp hi (i := .halted) (by simp [hh, selectOp]) whenSelected_of_selects

/-- All a step can do: nothing but None on the port, with no event or halted, or a row of the table. -/
theorem step_next_cases {s t : State} (h : step s = .next t) :
    t = s.emit .none ∨ s.halted = false ∧ ∃ ev rest, s.input = ev :: rest ∧ StepRow s ev t := by
  obtain ⟨-, rfl⟩ | ⟨ev, rest, hi, -⟩ := step_next h
  · exact .inl rfl
  · cases hh : s.halted with
    | true => exact .inl (Host.Outcome.next.inj (h.symm.trans (step_halted hh hi)))
    | false => exact .inr ⟨rfl, ev, rest, hi, stepRow_of_step hh hi h⟩

/-- A seeking state with nothing stored meets the invariants. -/
theorem State.Inv.of_seeking {s : State} (hf : s.fsm = .seekingStart) (hc : s.cnt = 0) (hb : s.buf = []) : s.Inv where
  seeking _ := hc
  reading h := by simp [hf] at h
  checking h := by simp [hf] at h
  halted _ := ⟨hf, hc⟩
  live := by simp [State.LiveCells, hb, hc]

/-- The ports and the events to come are no part of the invariants. -/
theorem State.Inv.emit {s : State} (h : s.Inv) (e : OutEvent) : (s.emit e).Inv :=
  ⟨h.seeking, h.reading, h.checking, h.halted, h.live⟩

theorem State.Inv.consume {s : State} (h : s.Inv) : s.consume.Inv :=
  ⟨h.seeking, h.reading, h.checking, h.halted, h.live⟩

/-- A byte stored at `cnt` makes one more cell live and, at the 74th, the end is next (R123). -/
theorem State.Inv.store {s : State} (h : s.Inv) (hh : s.halted = false) (hf : s.fsm = .readingBody) (b : Byte) :
    ({ s with buf := Memory.write s.buf s.cnt b } : State).advance.Inv where
  seeking hf' := by
    rw [State.advance_fsm] at hf'
    split at hf'
    · cases hf'
    · exact absurd (hf.symm.trans hf') nofun
  reading hf' := by
    have hle := h.reading hf
    rw [State.advance_fsm] at hf'
    split at hf'
    · cases hf'
    case isFalse hne => exact Nat.lt_of_le_of_ne hle hne
  checking hf' := by
    rw [State.advance_fsm] at hf'
    split at hf'
    case isTrue h73 => exact congrArg (· + 1) h73
    · exact absurd (hf.symm.trans hf') nofun
  halted hh' := absurd (hh.symm.trans hh') nofun
  live := Memory.fst_write_append h.live b

/-- Every row of the table keeps the invariants. -/
theorem StepRow.inv {s t : State} {ev : InEvent} (h : StepRow s ev t) (hh : s.halted = false) (hs : s.Inv) : t.Inv := by
  cases h with
  | noise => exact hs.consume.emit _
  | start => exact ⟨nofun, fun _ => Nat.zero_le _, nofun, fun hh' => absurd (hh.symm.trans hh') nofun, rfl⟩
  | body hf => exact (hs.consume.store hh hf _).emit _
  | _ => exact .of_seeking rfl rfl rfl

/-- Settles O47. Reset is seeking with nothing stored. -/
theorem resetMeetsInv : Obligations.ResetMeetsInv := fun _ => .of_seeking rfl rfl rfl

/-- Settles O48, by the cases of a step. -/
theorem stepKeepsInv : Obligations.StepKeepsInv := by
  intro s t hs h
  obtain rfl | ⟨hh, ev, rest, -, hrow⟩ := step_next_cases h
  · exact hs.emit _
  · exact hrow.inv hh hs

/-- From every state that meets the invariants some row applies to the event offered: no row wants a cell that is missing. -/
theorem State.Inv.exists_row {s : State} (hs : s.Inv) (ev : InEvent) : ∃ t, StepRow s ev t := by
  cases ev with
  | fatal => exact ⟨_, .fatal⟩
  | rdFail =>
    cases hf : s.fsm with
    | seekingStart => exact ⟨_, .noise hf rfl⟩
    | readingBody => exact ⟨_, .abortB hf⟩
    | checkingEnd => exact ⟨_, .abortE hf⟩
  | byte b =>
    cases hf : s.fsm with
    | seekingStart =>
      by_cases hb : b = startSentinel
      · exact hb ▸ ⟨_, .start hf⟩
      · exact ⟨_, .noise hf (bne_iff_ne.2 hb)⟩
    | readingBody => exact ⟨_, .body hf (Nat.lt_succ_of_le (hs.reading hf))⟩
    | checkingEnd =>
      obtain ⟨f, hframe⟩ := State.exists_frame hs.live (hs.checking hf)
      by_cases hb : b = endSentinel
      · exact hb ▸ ⟨_, .endFrame hf hframe⟩
      · exact ⟨_, .endMiss hf hframe hb⟩

/-- Settles O49. With an event offered HALTED or a row of the table answers, with none the block waits. -/
theorem stepAlwaysAnswers : Obligations.StepAlwaysAnswers := by
  intro s hs
  cases hi : s.input with
  | nil => exact ⟨_, step_waits hi⟩
  | cons ev rest =>
    cases hh : s.halted with
    | true => exact ⟨_, step_halted hh hi⟩
    | false =>
      obtain ⟨t, hrow⟩ := hs.exists_row ev
      exact ⟨t, hrow.step_eq hh hi⟩

/-- A row of the table consumes the event offered. -/
theorem StepRow.input {s t : State} {ev : InEvent} (h : StepRow s ev t) : t.input = s.input.tail := by
  cases h <;> rfl

/-- The position after each row is the one of R130. -/
theorem StepRow.position {s t : State} {ev : InEvent} (h : StepRow s ev t) (hh : s.halted = false) (hs : s.Inv) :
    (t.fsm, t.cnt, t.halted) = transition s.fsm s.cnt ev := by
  cases h with
  | noise hf hev =>
    cases ev with
    | byte b =>
      have hb : b ≠ startSentinel := bne_iff_ne.1 hev
      simp [transition, hf, hh, hb, hs.seeking hf]
    | rdFail => simp [transition, hf, hh, hs.seeking hf]
    | fatal => cases hev
  | start hf => simp [transition, hf, hh]
  | body hf => by_cases hc : s.cnt = 73 <;> simp [transition, hf, hh, hc]
  | endFrame hf => simp [transition, hf, hh]
  | endMiss hf => simp [transition, hf, hh, State.raise_eq]
  | abortB hf => simp [transition, hh, State.raise_eq]
  | abortE hf => simp [transition, hh, State.raise_eq]
  | fatal => simp [transition, haltedAfter, ErrorEvent.isFatal]

/-- What each row emits on a failed read (R126, R127). -/
theorem StepRow.out_rdFail {s t : State} (h : StepRow s .rdFail t) :
    (s.fsm = .seekingStart → t.out = .none) ∧ (s.fsm = .readingBody → t.out = .invalid (.readFailBody s.cnt)) ∧
      (s.fsm = .checkingEnd → t.out = .invalid .readFailEnd) := by
  cases h with
  | noise hf => simp [hf]
  | abortB hf => simp [hf]
  | abortE hf => simp [hf]

/-- What each row emits on a byte (R121 to R125). -/
theorem StepRow.out_byte {s t : State} {b : Byte} (h : StepRow s (.byte b) t) :
    (s.fsm ≠ .checkingEnd → t.out = .none) ∧
      (s.fsm = .checkingEnd → ∃ f, s.HoldsFrame f ∧
        (b = endSentinel → t.out = verdictOf f (decodeFrame (registerMap s.runOff) f)) ∧
        (b ≠ endSentinel → t.out = .invalid (.endMismatch b f))) := by
  cases h with
  | noise hf => simp [hf]
  | start hf => simp [hf]
  | body hf => simp [hf]
  | endFrame hf hframe => exact ⟨fun h => absurd hf h, fun _ => ⟨_, hframe, fun _ => rfl, fun h => absurd rfl h⟩⟩
  | endMiss hf hframe hb => exact ⟨fun h => absurd hf h, fun _ => ⟨_, hframe, fun h => absurd h hb, fun _ => rfl⟩⟩

/-- Settles O50. Halted, the step is HALTED; otherwise a row of the table applies, and its position and output are those of R130. -/
theorem stepFollowsTransitionTable : Obligations.StepFollowsTransitionTable := by
  intro s ev rest hs hi
  by_cases hh : s.halted = true
  · exact ⟨_, step_halted hh hi, fun _ => rfl, fun hh' => absurd (hh.symm.trans hh') nofun⟩
  · have hh' : s.halted = false := eq_false_of_ne_true hh
    obtain ⟨t, hrow⟩ := hs.exists_row ev
    refine ⟨t, hrow.step_eq hh' hi, fun h => absurd h hh, fun _ => ⟨hrow.position hh' hs, by rw [hrow.input, hi, List.tail_cons], ?_, ?_, ?_⟩⟩
    · rintro rfl
      cases hrow with
      | noise _ hev => cases hev
      | fatal => rfl
    · rintro rfl
      exact hrow.out_rdFail
    · rintro b rfl
      exact hrow.out_byte

end Sys2Proof.Machine
end

section
/-! What a step emits and leaves (R124, R131, R218), and where runs end (R27, R136). -/

namespace Sys2Proof.Machine

/-- StreamFatalError alone is fatal (R210). -/
theorem ErrorEvent.isFatal_eq (e : ErrorEvent) : e.isFatal = decide (e = .streamFatal) := by
  cases e <;> rfl

/-- Settles O51. A step that emits `Invalid` has raised the error, and `halted` was clear before it. -/
theorem errorLeavesResetState : Obligations.ErrorLeavesResetState := by
  intro s t e h he
  obtain ⟨hh, rfl⟩ := step_invalid h he
  refine ⟨fun a => State.cell_eq_none (Nat.zero_le a), ?_⟩
  simp [State.raise, State.seek, State.emit, State.consume, State.resetWith, haltedAfter, hh, ErrorEvent.isFatal_eq]

/-- A verdict is `Valid` only for the frame decoded and the Message it decodes to. -/
theorem verdictOf_eq_valid {f g : RawFrame} {r : DecodeResult} {m : Message} (h : verdictOf f r = .valid m g) : f = g ∧ r = .ok m := by
  cases r with
  | ok msg =>
    obtain ⟨rfl, rfl⟩ := OutEvent.valid.inj h
    exact ⟨rfl, rfl⟩
  | checksumMismatch c t => cases h
  | outOfRange fid v => cases h

/-- Only END's row emits `Valid`. -/
theorem StepRow.of_valid {s t : State} {ev : InEvent} {m : Message} {f : RawFrame} (h : StepRow s ev t) (hout : t.out = .valid m f) :
    s.fsm = .checkingEnd ∧ ev = .byte endSentinel ∧ s.HoldsFrame f ∧ decodeFrame (registerMap s.runOff) f = .ok m ∧
      t = s.consume.seek.emit (.valid m f) := by
  cases h with
  | endFrame hf hframe =>
    obtain ⟨rfl, hdec⟩ := verdictOf_eq_valid hout
    exact ⟨hf, rfl, hframe, hdec, congrArg _ hout⟩
  | _ => cases hout

/-- Settles O52. Of all a step can do only END's row emits `Valid`. -/
theorem validOnlyFromEnd : Obligations.ValidOnlyFromEnd := by
  intro s t m f h hout
  obtain rfl | ⟨hh, ev, rest, hi, hrow⟩ := step_next_cases h
  · cases hout
  · obtain ⟨hf, rfl, hframe, hdec, rfl⟩ := hrow.of_valid hout
    refine ⟨hh, hf, by rw [hi]; rfl, hframe, hdec, ?_⟩
    simp [State.seek, State.emit, State.consume, State.resetWith, hh]

/-- Noise met while seeking brings out None at every step and leaves the state as it is, the noise consumed. -/
theorem runSteps_noise (noise : List InEvent) {s : State} {rest : List InEvent} (hh : s.halted = false) (hf : s.fsm = .seekingStart)
    (hnoise : ∀ ev ∈ noise, isNoise ev = true) (hi : s.input = noise ++ rest) :
    runSteps noise.length s =
      (List.replicate noise.length .none, { s with input := rest, out := if noise = [] then s.out else .none }) := by
  induction noise generalizing s with
  | nil =>
    have hrest : rest = s.input := hi.symm
    simp [runSteps, hrest]
  | cons ev noise ih =>
    obtain ⟨hev, hnoise'⟩ := List.forall_mem_cons.1 hnoise
    have hnext := ih (s := s.consume.emit .none) hh hf hnoise' (by simp [hi])
    rw [List.length_cons, runSteps_cons _ hh hi ((StepRow.noise hf hev).step_eq hh hi), hnext]
    simp [List.replicate_succ, State.consume, State.emit]

/-- Settles O53. -/
theorem noiseIsRejected : Obligations.NoiseIsRejected := by
  intro s noise rest hh hf hne hnoise hi
  rw [runSteps_noise noise hh hf hnoise hi, if_neg hne]

/-- Settles O57. The two states are alike in all a step can read. -/
theorem deadCellsDoNotMatter : Obligations.DeadCellsDoNotMatter := by
  intro s s' k hf hc hh hr hi hcell
  have halike : s'.Alike s := ⟨hf, hc, hh, hr, hi, hcell⟩
  exact halike.runSteps_eq k

/-- A run has ended where `halted` is set. -/
theorem runSteps_of_halted {s : State} (k : Nat) (hh : s.halted = true) : runSteps k s = ([], s) := by
  cases k <;> simp [runSteps, hh]

/-- From a state that meets the invariants every step consumes an event or finds the block halted, so as many steps as events end the run. -/
theorem State.Inv.runSteps_ends {s : State} (hs : s.Inv) (k : Nat) (hk : s.input.length ≤ k) :
    (runSteps k s).2.input = [] ∨ (runSteps k s).2.halted = true := by
  induction k generalizing s with
  | zero => exact .inl (List.length_eq_zero_iff.1 (Nat.le_zero.1 hk))
  | succ k ih =>
    by_cases hh : s.halted = true
    · rw [runSteps_of_halted _ hh]
      exact .inr hh
    · cases hi : s.input with
      | nil =>
        rw [runSteps_of_input_nil _ hi]
        exact .inl hi
      | cons ev rest =>
        have hh' : s.halted = false := eq_false_of_ne_true hh
        obtain ⟨t, hrow⟩ := hs.exists_row ev
        have hlen : t.input.length ≤ k := by simpa [hrow.input, hi] using hk
        rw [runSteps_cons k hh' hi (hrow.step_eq hh' hi)]
        exact ih (hrow.inv hh' hs) hlen

/-- Settles O58. `run` takes as many steps as there are events. -/
theorem runEndsUsedUpOrHalted : Obligations.RunEndsUsedUpOrHalted :=
  fun _ hs => hs.runSteps_ends _ (Nat.le_refl _)

end Sys2Proof.Machine
end

section
/-! Candidates: the bytes stored so far, from START to the end byte (R122 to R125, R256, R257). -/

namespace Sys2Proof.Machine

/-- The block is in a candidate of which exactly the bytes `l` are stored. -/
structure State.Candidate (s : State) (l : List Byte) : Prop where
  halted : s.halted = false
  fsm : s.fsm = if l.length = 74 then .checkingEnd else .readingBody
  cnt : s.cnt = l.length
  cell : ∀ a, s.cell a = l[a]?

/-- START opens a candidate with no byte (R122). -/
theorem State.Candidate.start {s : State} (hh : s.halted = false) :
    ({ s.consume.seek.emit .none with fsm := .readingBody } : State).Candidate [] :=
  ⟨hh, rfl, rfl, fun a => State.cell_eq_none (Nat.zero_le a)⟩

/-- A byte stored at `cnt` is one more byte of the candidate (R123). -/
theorem State.Candidate.store {s : State} {l : List Byte} (h : s.Candidate l) (hlen : l.length < 74) (b : Byte) :
    ({ s with buf := Memory.write s.buf s.cnt b } : State).advance.Candidate (l ++ [b]) where
  halted := h.halted
  fsm := by
    have hne : l.length ≠ 74 := Nat.ne_of_lt hlen
    simp [h.fsm, h.cnt, hne]
  cnt := by simp [h.cnt]
  cell a := by
    rw [State.cell_store, h.cell, h.cnt]
    split
    case isTrue ha => simp [ha]
    case isFalse ha =>
      rcases Nat.lt_or_gt_of_ne ha with hlt | hgt
      · exact (List.getElem?_append_left hlt).symm
      · rw [List.getElem?_eq_none (Nat.le_of_lt hgt), List.getElem?_eq_none (List.length_append ▸ hgt)]

theorem State.Candidate.consume {s : State} {l : List Byte} (h : s.Candidate l) : s.consume.Candidate l :=
  ⟨h.halted, h.fsm, h.cnt, h.cell⟩

theorem State.Candidate.emit {s : State} {l : List Byte} (h : s.Candidate l) (e : OutEvent) : (s.emit e).Candidate l :=
  ⟨h.halted, h.fsm, h.cnt, h.cell⟩

/-- A whole candidate is a RawFrame in the buffer (R81). -/
theorem State.Candidate.holdsFrame {s : State} {f : RawFrame} (h : s.Candidate f.bytes) : s.HoldsFrame f := fun i => by
  rw [h.cell]
  exact List.getElem?_eq_getElem _

/-- The frame in the buffer is the candidate's bytes. -/
theorem State.Candidate.eq_bytes {s : State} {f : RawFrame} {l : List Byte} (h : s.Candidate l) (hlen : l.length = 74)
    (hframe : s.HoldsFrame f) : l = f.bytes := by
  have hl : (⟨l, hlen⟩ : RawFrame) = f := RawFrame.ext_cell fun i => by
    have hi := State.Candidate.holdsFrame (f := ⟨l, hlen⟩) h i
    exact Option.some.inj (hi.symm.trans (hframe i))
  exact congrArg RawFrame.bytes hl

/-- A run over bytes of a candidate stores them and brings out None at every step. -/
theorem State.Candidate.runSteps_bytes {s : State} {l : List Byte} (h : s.Candidate l) (bs : List Byte) {rest : List InEvent}
    (hlen : l.length + bs.length ≤ 74) (hi : s.input = bs.map InEvent.byte ++ rest) :
    ∃ t, runSteps bs.length s = (List.replicate bs.length .none, t) ∧ t.Candidate (l ++ bs) ∧ t.input = rest ∧
      t.runOff = s.runOff ∧ t.fout = s.fout := by
  induction bs generalizing s l with
  | nil => exact ⟨s, rfl, by simpa using h, hi, rfl, rfl⟩
  | cons b bs ih =>
    rw [List.length_cons] at hlen
    have hl : l.length < 74 := by omega
    have hf : s.fsm = .readingBody := h.fsm.trans (if_neg (Nat.ne_of_lt hl))
    have hstep := (StepRow.body hf (h.cnt ▸ hl)).step_eq h.halted hi
    have hstored : (({ s.consume with buf := Memory.write s.buf s.cnt b } : State).advance.emit .none).Candidate (l ++ [b]) :=
      (h.consume.store hl b).emit .none
    obtain ⟨t, hrun, ht, hrest, hr, hfout⟩ := ih hstored (by simp; omega) (by simp [hi])
    refine ⟨t, ?_, by simpa using ht, hrest, hr, hfout⟩
    rw [List.length_cons, runSteps_cons _ h.halted hi hstep, hrun]
    rfl

/-- From seeking, a start sentinel and up to 74 bytes open a candidate and bring out None at every step. -/
theorem runSteps_open {s : State} (bs : List Byte) {rest : List InEvent} (hh : s.halted = false) (hf : s.fsm = .seekingStart)
    (hlen : bs.length ≤ 74) (hi : s.input = .byte startSentinel :: (bs.map InEvent.byte ++ rest)) :
    ∃ t, runSteps (bs.length + 1) s = (List.replicate (bs.length + 1) .none, t) ∧ t.Candidate bs ∧ t.input = rest ∧
      t.runOff = s.runOff ∧ t.fout = s.fout := by
  obtain ⟨t, hrun, ht⟩ := (State.Candidate.start hh).runSteps_bytes bs (by simpa using hlen) (rest := rest) (by simp [hi])
  refine ⟨t, ?_, ht⟩
  rw [runSteps_cons _ hh hi ((StepRow.start hf).step_eq hh hi), hrun]
  rfl

/-- What the end byte of a candidate brings out: DECODE's verdict or the mismatch (R124, R125). -/
def endVerdict (r : RunOff) (f : RawFrame) (b : Byte) : OutEvent :=
  if b = endSentinel then verdictOf f (decodeFrame (registerMap r) f) else .invalid (.endMismatch b f)

/-- The end byte closes a whole candidate: the block seeks again with nothing kept. -/
theorem State.Candidate.step_end {s : State} {f : RawFrame} {b : Byte} {rest : List InEvent} (h : s.Candidate f.bytes)
    (hi : s.input = .byte b :: rest) : step s = .next { s with
      fsm := .seekingStart, cnt := 0, buf := [], input := rest, out := endVerdict s.runOff f b } := by
  have hf : s.fsm = .checkingEnd := h.fsm.trans (if_pos f.length_eq)
  by_cases hb : b = endSentinel
  · subst hb
    rw [(StepRow.endFrame hf h.holdsFrame).step_eq h.halted hi]
    simp [State.consume, State.seek, State.emit, endVerdict, hi]
  · rw [(StepRow.endMiss hf h.holdsFrame hb).step_eq h.halted hi]
    simp [State.consume, State.raise_eq, endVerdict, hi, hb]

/-- A start sentinel, 74 bytes and an end byte, from seeking: one event at the 76th step, and the block seeks with nothing kept. -/
theorem runSteps_candidate {s : State} (f : RawFrame) (b : Byte) {rest : List InEvent} (hh : s.halted = false)
    (hf : s.fsm = .seekingStart) (hi : s.input = .byte startSentinel :: (f.bytes.map InEvent.byte ++ .byte b :: rest)) :
    runSteps 76 s = (List.replicate 75 .none ++ [endVerdict s.runOff f b],
      { s with cnt := 0, buf := [], input := rest, out := endVerdict s.runOff f b }) := by
  obtain ⟨t, hrun, ht, hrest, hr, hfout⟩ := runSteps_open f.bytes hh hf (Nat.le_of_eq f.length_eq) hi
  rw [f.length_eq] at hrun
  rw [runSteps_add 75 1, hrun, runSteps_cons 0 ht.halted hrest (ht.step_end hrest), hr, hfout, ht.halted]
  simp [runSteps, hf, hh]

/-- Settles O54. -/
theorem candidateTakes76Events : Obligations.CandidateTakes76Events :=
  fun s f b _ hh hf hi => ⟨endVerdict s.runOff f b, fun hb => if_pos hb, fun hb => if_neg hb, runSteps_candidate f b hh hf hi⟩

/-- A wire frame and what is behind it, as the events of a candidate (R80). -/
theorem wireFrame_append (f : RawFrame) (rest : List InEvent) :
    wireFrame f ++ rest = .byte startSentinel :: (f.bytes.map InEvent.byte ++ .byte endSentinel :: rest) := by
  simp [wireFrame]

/-- Settles O46. The wire frame after a reset is a candidate that ends in the end sentinel. -/
theorem resetStartsAfresh : Obligations.ResetStartsAfresh := by
  refine ⟨fun r => ⟨rfl, rfl, fun a => State.cell_eq_none (Nat.zero_le a), rfl, rfl⟩, fun s => rfl, fun s f rest hi => ?_⟩
  rw [wireFrame_append] at hi
  rw [runSteps_candidate (s := s.hostReset) f endSentinel rfl rfl hi]
  rfl

end Sys2Proof.Machine
end

section
/-! No `Valid` without the whole wire frame in the stream: what the block holds is always the end of what it has consumed (R131). -/

namespace Sys2Proof.Machine

/-- After the events `past` the block seeks, or it is in a candidate whose start sentinel and bytes are the last of them. -/
def State.Behind (s : State) (past : List InEvent) : Prop :=
  s.fsm = .seekingStart ∨ ∃ pre l, l.length ≤ 74 ∧ s.Candidate l ∧ past = pre ++ .byte startSentinel :: l.map InEvent.byte

/-- A block that does not seek is in such a candidate. -/
theorem State.Behind.candidate {s : State} {past : List InEvent} (h : s.Behind past) (hf : s.fsm ≠ .seekingStart) :
    ∃ pre l, l.length ≤ 74 ∧ s.Candidate l ∧ past = pre ++ .byte startSentinel :: l.map InEvent.byte :=
  h.resolve_left hf

/-- A row of the table keeps that, for the past with the event offered added. -/
theorem StepRow.behind {s t : State} {ev : InEvent} {past : List InEvent} (h : StepRow s ev t) (hh : s.halted = false)
    (hs : s.Behind past) : t.Behind (past ++ [ev]) := by
  cases h with
  | noise hf => exact .inl hf
  | start hf => exact .inr ⟨past, [], Nat.zero_le _, .start hh, rfl⟩
  | @body b hf hc =>
    obtain ⟨pre, l, -, hl, rfl⟩ := hs.candidate (by simp [hf])
    have hlen : l.length < 74 := hl.cnt ▸ hc
    exact .inr ⟨pre, l ++ [b], by simpa using hlen, (hl.consume.store hlen b).emit _, by simp⟩
  | _ => exact .inl rfl

/-- Where a row emits `Valid`, the past and the event offered end in the frame on the wire. -/
theorem StepRow.wireFrame_of_valid {s t : State} {ev : InEvent} {past : List InEvent} {m : Message} {f : RawFrame}
    (h : StepRow s ev t) (hs : s.Behind past) (hout : t.out = .valid m f) :
    decodeFrame (registerMap s.runOff) f = .ok m ∧ ∃ pre, past ++ [ev] = pre ++ wireFrame f := by
  obtain ⟨hf, rfl, hframe, hdec, -⟩ := h.of_valid hout
  obtain ⟨pre, l, -, hl, rfl⟩ := hs.candidate (by simp [hf])
  have hlen : l.length = 74 := by
    by_contra hne
    simp [hl.fsm, hne] at hf
  exact ⟨hdec, pre, by simp [hl.eq_bytes hlen hframe, wireFrame]⟩

/-- A row of the table never writes RUN_OFF (R28). -/
theorem StepRow.runOff {s t : State} {ev : InEvent} (h : StepRow s ev t) : t.runOff = s.runOff := by
  cases h <;> rfl

/-- Soundness for a run that begins with the events `past` consumed. -/
theorem State.Behind.wireFrame_of_mem {s : State} {past : List InEvent} (hs : s.Behind past) {k : Nat} {m : Message} {f : RawFrame}
    (h : .valid m f ∈ (runSteps k s).1) :
    decodeFrame (registerMap s.runOff) f = .ok m ∧ ∃ pre post, past ++ s.input = pre ++ wireFrame f ++ post := by
  induction k generalizing s past with
  | zero => cases h
  | succ k ih =>
    by_cases hnext : ∃ t, step s = .next t
    case neg =>
      rw [runSteps_of_no_next _ (not_exists.1 hnext)] at h
      cases h
    case pos =>
      obtain ⟨t, hst⟩ := hnext
      cases hi : s.input with
      | nil =>
        rw [runSteps_of_input_nil _ hi] at h
        cases h
      | cons ev rest =>
        by_cases hh : s.halted = true
        · rw [runSteps_of_halted _ hh] at h
          cases h
        · have hh' : s.halted = false := eq_false_of_ne_true hh
          have hrow := stepRow_of_step hh' hi hst
          rw [runSteps_cons k hh' hi hst] at h
          rcases List.mem_cons.1 h with hout | htail
          · obtain ⟨hdec, pre, hpast⟩ := hrow.wireFrame_of_valid hs hout.symm
            exact ⟨hdec, pre, rest, by rw [← hpast]; simp⟩
          · obtain ⟨hdec, pre, post, hstream⟩ := ih (hrow.behind hh' hs) htail
            rw [hrow.input, hi] at hstream
            exact ⟨hrow.runOff ▸ hdec, pre, post, by simpa using hstream⟩

/-- Settles O55. A seeking block holds nothing, whatever it has consumed. -/
theorem validNeedsWholeFrame : Obligations.ValidNeedsWholeFrame := by
  intro s k m f hf h
  have hs : s.Behind [] := .inl hf
  obtain ⟨hdec, pre, post, hstream⟩ := hs.wireFrame_of_mem h
  exact ⟨pre, post, by simpa using hstream, hdec⟩

end Sys2Proof.Machine
end

section
/-! The result of a run over noise, wire frames and an open candidate (R136). -/

namespace Sys2Proof.Machine

/-- `k` steps from `s` lead to `t`, and the events they emit, None left out, are `vs`. -/
def Emits (s : State) (k : Nat) (vs : List OutEvent) (t : State) : Prop :=
  emitted (runSteps k s).1 = vs ∧ (runSteps k s).2 = t

/-- Parts of a run emit one after the other. -/
theorem Emits.trans {s t u : State} {j k : Nat} {vs ws : List OutEvent} (h : Emits s j vs t) (h' : Emits t k ws u) :
    Emits s (j + k) (vs ++ ws) u := by
  obtain ⟨rfl, rfl⟩ := h
  obtain ⟨rfl, rfl⟩ := h'
  rw [Emits, runSteps_add, emitted_append]
  exact ⟨rfl, rfl⟩

/-- Seeking and not halted with nothing stored, and the events `rest` to come. -/
structure State.Idle (s : State) (r : RunOff) (rest : List InEvent) : Prop where
  halted : s.halted = false
  fsm : s.fsm = .seekingStart
  cnt : s.cnt = 0
  runOff : s.runOff = r
  input : s.input = rest

/-- Noise emits nothing. -/
theorem State.Idle.emits_noise {s : State} {r : RunOff} {noise rest : List InEvent} (h : s.Idle r (noise ++ rest))
    (hnoise : ∀ ev ∈ noise, isNoise ev = true) : ∃ t, Emits s noise.length [] t ∧ t.Idle r rest := by
  have hrun := runSteps_noise noise h.halted h.fsm hnoise h.input
  exact ⟨_, ⟨by rw [hrun, emitted_replicate_none], rfl⟩, by rw [hrun]; exact ⟨h.halted, h.fsm, h.cnt, h.runOff, rfl⟩⟩

theorem length_wireFrame (f : RawFrame) : (wireFrame f).length = 76 := by
  simp [wireFrame, f.length_eq]

/-- A wire frame emits its verdict. -/
theorem State.Idle.emits_wireFrame {s : State} {r : RunOff} {f : RawFrame} {rest : List InEvent} (h : s.Idle r (wireFrame f ++ rest)) :
    ∃ t, Emits s (wireFrame f).length [verdictOf f (decodeFrame (registerMap r) f)] t ∧ t.Idle r rest := by
  have hrun := runSteps_candidate f endSentinel h.halted h.fsm (h.input.trans (wireFrame_append f rest))
  have hv : endVerdict s.runOff f endSentinel = verdictOf f (decodeFrame (registerMap r) f) := by rw [h.runOff]; rfl
  rw [hv] at hrun
  rw [length_wireFrame]
  exact ⟨_, ⟨by rw [hrun, emitted_append, emitted_replicate_none, emitted_verdict, List.nil_append], rfl⟩,
    by rw [hrun]; exact ⟨h.halted, h.fsm, rfl, h.runOff, rfl⟩⟩

/-- Frames with noise before each emit their verdicts in order. -/
theorem State.Idle.emits_frames {s : State} {r : RunOff} (frames : List (List InEvent × RawFrame)) {rest : List InEvent}
    (h : s.Idle r (frames.flatMap (fun p => p.1 ++ wireFrame p.2) ++ rest)) (hnoise : ∀ p ∈ frames, ∀ ev ∈ p.1, isNoise ev = true) :
    ∃ t, Emits s (frames.flatMap fun p => p.1 ++ wireFrame p.2).length
      (frames.map fun p => verdictOf p.2 (decodeFrame (registerMap r) p.2)) t ∧ t.Idle r rest := by
  induction frames generalizing s with
  | nil => exact ⟨s, ⟨rfl, rfl⟩, h⟩
  | cons p frames ih =>
    obtain ⟨hp, hframes⟩ := List.forall_mem_cons.1 hnoise
    rw [List.flatMap_cons, List.append_assoc, List.append_assoc] at h
    obtain ⟨t1, hemit1, h1⟩ := h.emits_noise hp
    obtain ⟨t2, hemit2, h2⟩ := h1.emits_wireFrame
    obtain ⟨t, hemit, ht⟩ := ih h2 hframes
    refine ⟨t, ?_, ht⟩
    rw [List.flatMap_cons, List.length_append, List.length_append]
    exact (hemit1.trans hemit2).trans hemit

/-- What is left open at the end of a run: nothing, or a start sentinel and at most 74 bytes. -/
def IsOpenEnd (last : List InEvent) : Prop :=
  last = [] ∨ ∃ bs : List Byte, bs.length ≤ 74 ∧ last = .byte startSentinel :: bs.map InEvent.byte

/-- The end of a run emits nothing, and its bytes are counted. -/
theorem State.Idle.emits_openEnd {s : State} {r : RunOff} {last : List InEvent} (h : s.Idle r last) (hlast : IsOpenEnd last) :
    ∃ t, Emits s last.length [] t ∧ t.input = [] ∧ t.halted = false ∧ t.cnt = last.length - 1 ∧
      (t.fsm = .seekingStart ↔ last = []) := by
  rcases hlast with rfl | ⟨bs, hlen, rfl⟩
  · exact ⟨s, ⟨rfl, rfl⟩, h.input, h.halted, h.cnt, by simp [h.fsm]⟩
  · obtain ⟨t, hrun, ht, hrest, -⟩ := runSteps_open bs (rest := []) h.halted h.fsm hlen (by simpa using h.input)
    have hf : t.fsm ≠ .seekingStart := by
      rw [ht.fsm]
      split <;> nofun
    refine ⟨t, ?_, hrest, ht.halted, by simp [ht.cnt], by simp [hf]⟩
    rw [List.length_cons, List.length_map, Emits, hrun]
    exact ⟨emitted_replicate_none _, rfl⟩

/-- Settles O59. The frames, the noise behind them and the open end, one part of the run after the other. -/
theorem runListsVerdicts : Obligations.RunListsVerdicts := by
  intro s frames noise last hh hf hc hframes hnoise hlast hi
  have h : s.Idle s.runOff (frames.flatMap (fun p => p.1 ++ wireFrame p.2) ++ (noise ++ last)) :=
    ⟨hh, hf, hc, rfl, by rw [hi, List.append_assoc]⟩
  obtain ⟨t1, hemit1, h1⟩ := h.emits_frames frames hframes
  obtain ⟨t2, hemit2, h2⟩ := h1.emits_noise hnoise
  obtain ⟨t, hemit3, ht⟩ := h2.emits_openEnd hlast
  have hemit : Emits s s.input.length (frames.map fun p => verdictOf p.2 (decodeFrame (registerMap s.runOff) p.2)) t := by
    simpa [hi, Nat.add_assoc] using (hemit1.trans hemit2).trans hemit3
  obtain ⟨hout, rfl⟩ := hemit
  exact ⟨hout, ht⟩

end Sys2Proof.Machine
end

section
/-! The step operations run by `exec` where they are selected (R123 to R129), and where they are not. -/

namespace Sys2Proof.Machine

/-- Settles O7. BODY is selected, and the write at `cnt` leaves every other address alone. -/
theorem bodyStoresByte : Obligations.BodyStoresByte := by
  intro s b rest hh hf hc hi
  have hsel : s.selects (.body b) = true := (State.selects_iff hi _).2 (by simp [hh, hf, selectOp])
  refine ⟨_, execBody_of_selects hsel (Nat.lt_succ_of_le hc), ?_, fun a ha => Memory.read_write_other _ _ ha, ?_⟩
  · exact (State.cell_store s.consume b s.cnt).trans (if_pos rfl)
  · simp [State.advance, State.emit, State.consume, hi, hf]

/-- Settles O8. END is selected and finds the frame in the buffer. -/
theorem endEmitsVerdict : Obligations.EndEmitsVerdict := by
  intro s f rest hh hf hframe hi
  have hsel : s.selects .endFrame = true := (State.selects_iff hi _).2 (by simp [hh, hf, selectOp, endSentinel])
  refine ⟨_, execEndFrame_of_selects hsel hframe, fun a => State.cell_eq_none (Nat.zero_le a), rfl, ?_⟩
  simp [State.seek, State.emit, State.consume, hi]

/-- Settles O10. IDLEFAIL is selected. -/
theorem idleFailKeepsSeeking : Obligations.IdleFailKeepsSeeking := by
  intro s rest hh hf hi
  have hsel : s.selects .idleFail = true := (State.selects_iff hi _).2 (by simp [hh, hf, selectOp])
  refine (whenSelected_of_selects hsel).trans ?_
  simp [State.emit, State.consume, hi]

/-- Settles O11. Either form of ABORT is selected and raises its error. -/
theorem abortDiscardsCandidate : Obligations.AbortDiscardsCandidate := by
  constructor
  · intro s rest hh hf hi
    have hsel : s.selects .abortB = true := (State.selects_iff hi _).2 (by simp [hh, hf, selectOp])
    refine ⟨_, whenSelected_of_selects hsel, fun a => State.cell_eq_none (Nat.zero_le a), ?_⟩
    simp [State.raise_eq, State.consume, hi]
  · intro s rest hh hf hi
    have hsel : s.selects .abortE = true := (State.selects_iff hi _).2 (by simp [hh, hf, selectOp])
    refine ⟨_, whenSelected_of_selects hsel, fun a => State.cell_eq_none (Nat.zero_le a), ?_⟩
    simp [State.raise_eq, State.consume, hi]

/-- Settles O12. FATAL is selected in every `fsm`, and its error sets `halted`. -/
theorem fatalHalts : Obligations.FatalHalts := by
  intro s rest hh hi
  have hsel : s.selects .fatal = true := (State.selects_iff hi _).2 (by simp [hh, selectOp])
  refine ⟨_, whenSelected_of_selects hsel, fun a => State.cell_eq_none (Nat.zero_le a), ?_⟩
  simp [State.raise, State.seek, State.emit, State.consume, haltedAfter, ErrorEvent.isFatal, hi]

/-- Settles O13. HALTED is selected whatever the event. -/
theorem haltedIsIdentity : Obligations.HaltedIsIdentity := by
  intro s ev rest hh hi
  have hsel : s.selects .halted = true := (State.selects_iff hi _).2 (by simp [hh, selectOp])
  exact whenSelected_of_selects hsel

/-- Every step operation runs under its selection. -/
theorem exec_stepOp {i : Instr} (hi : isStepOp i = true) (s : State) : ∃ k, exec i s = whenSelected i s k := by
  cases i with
  | halted | fatal | idleFail | abortB | abortE | start | skip | body | endFrame | endMiss => exact ⟨_, rfl⟩
  | _ => cases hi

/-- Settles O14. With no event, or with one that selects another operation, the selection fails. -/
theorem unselectedOperationStops : Obligations.UnselectedOperationStops := by
  intro s i hi hne
  obtain ⟨k, hk⟩ := exec_stepOp hi s
  have hsel : s.selects i = false := Bool.eq_false_iff.2 fun hsel => by
    obtain ⟨ev, rest, hin, hop⟩ := State.selects_event hsel
    exact hne ev rest hin hop
  exact hk.trans (whenSelected_of_not hsel)

/-- Settles O44. The decoder reads from the selector word the operation `step` runs. -/
theorem stepRunsDecoded : Obligations.StepRunsDecoded := by
  refine ⟨fun s ev rest i hi hdec => ?_, fun s hi => step_waits hi⟩
  rw [decodeSelector_selectorWord] at hdec
  rw [step_selects hi, Except.ok.inj hdec]

end Sys2Proof.Machine
end

section
/-! What every operation leaves unchanged (R25 to R28, R51, R154, R170, R192). -/

namespace Sys2Proof.Machine

/-- Every function of the frame reads it through `withFrame`. -/
theorem exec_frameFunction {i : Instr} (hi : i ∈ ([.cksum, .ckext, .ckvfy, .fCfg, .fMode, .fDir, .fCyc, .fRun, .fIout, .fVout, .fVin,
    .fQout, .fTime, .decode] : List Instr)) (s : State) : ∃ k, exec i s = withFrame s k := by
  revert i
  simp only [List.forall_mem_cons]
  refine ⟨?_, ?_, ?_, ?_, ?_, ?_, ?_, ?_, ?_, ?_, ?_, ?_, ?_, ?_, nofun⟩ <;> exact ⟨_, rfl⟩

/-- Settles O38. With a dead cell there is no frame to read. -/
theorem frameFunctionsNeedLiveCells : Obligations.FrameFunctionsNeedLiveCells := by
  rintro s i hi ⟨a, ha, hdead⟩
  obtain ⟨k, hk⟩ := exec_frameFunction hi s
  rw [hk, withFrame, State.frame?_eq_none ha hdead]

/-- A function of the frame and a codec primitive alike write the answer port alone. -/
theorem exec_function_next {i : Instr} {s t : State} (hi : isStepOp i = false) (h : exec i s = .next t) : ∃ r, t = s.answer r := by
  cases i with
  | rawb | fixf | scli | niblo | nibhi | bitt | enumLookup => exact ⟨_, (Host.Outcome.next.inj h).symm⟩
  | cksum | ckext | ckvfy | fCfg | fMode | fDir | fCyc | fRun | fIout | fVout | fVin | fQout | fTime | decode =>
    obtain ⟨f, -, rfl⟩ := withFrame_eq_next h
    exact ⟨_, rfl⟩
  | _ => cases hi

/-- Settles O37. -/
theorem functionsChangeOnlyAnswer : Obligations.FunctionsChangeOnlyAnswer :=
  fun _ _ _ hi h => exec_function_next hi h

/-- What an operation can make of the candidate and of `halted`: keep both, discard the candidate (only FATAL then sets the flag), or store a
byte. -/
inductive Effect (i : Instr) (s t : State) : Prop
  | keeps (hc : t.cnt = s.cnt) (hb : t.buf = s.buf) (hh : t.halted = s.halted)
  | discards (hc : t.cnt = 0) (hb : t.buf = []) (hh : t.halted = (s.halted || decide (i = .fatal)))
  | stores (b : Byte) (hi : i = .body b) (hc : t.cnt = s.cnt + 1) (hb : t.buf = Memory.write s.buf s.cnt b) (hh : t.halted = s.halted)

/-- Every operation that answers has one of these effects and leaves RUN_OFF as it is. -/
theorem exec_effect {i : Instr} {s t : State} (h : exec i s = .next t) : Effect i s t ∧ t.runOff = s.runOff := by
  cases i with
  | halted => obtain ⟨-, rfl⟩ := execHalted_next h; exact ⟨.keeps rfl rfl rfl, rfl⟩
  | idleFail => obtain ⟨-, rfl⟩ := execIdleFail_next h; exact ⟨.keeps rfl rfl rfl, rfl⟩
  | skip b => obtain ⟨-, rfl⟩ := execSkip_next h; exact ⟨.keeps rfl rfl rfl, rfl⟩
  | fatal => obtain ⟨-, rfl⟩ := execFatal_next h; exact ⟨.discards rfl rfl rfl, rfl⟩
  | abortB => obtain ⟨-, rfl⟩ := execAbortB_next h; exact ⟨.discards rfl rfl rfl, rfl⟩
  | abortE => obtain ⟨-, rfl⟩ := execAbortE_next h; exact ⟨.discards rfl rfl rfl, rfl⟩
  | endMiss b => obtain ⟨-, f, -, rfl⟩ := execEndMiss_next h; exact ⟨.discards rfl rfl rfl, rfl⟩
  | start => obtain ⟨-, rfl⟩ := execStart_next h; exact ⟨.discards rfl rfl (Bool.or_false _).symm, rfl⟩
  | endFrame =>
    obtain ⟨-, f, -, rfl⟩ := execEndFrame_next h
    rw [State.finish_eq]
    exact ⟨.discards rfl rfl (Bool.or_false _).symm, rfl⟩
  | body b => obtain ⟨-, -, rfl⟩ := execBody_next h; exact ⟨.stores b rfl rfl rfl rfl, rfl⟩
  | _ => obtain ⟨r, rfl⟩ := exec_function_next rfl h; exact ⟨.keeps rfl rfl rfl, rfl⟩

/-- After a discarded candidate no cell is live. -/
theorem State.cell_of_cnt_zero {s : State} (hc : s.cnt = 0) (a : Nat) : s.cell a = none :=
  State.cell_eq_none (hc ▸ Nat.zero_le a)

/-- Settles O39, by the one state each step operation answers. -/
theorem stepOperationsMemoryFrame : Obligations.StepOperationsMemoryFrame := by
  refine fun i s t h => ⟨fun b hi a => ?_, fun b hi a ha => ?_, fun b hi a => State.cell_of_cnt_zero ?_ a⟩
  · rcases hi with rfl | rfl | rfl
    · obtain ⟨-, rfl⟩ := execSkip_next h; rfl
    · obtain ⟨-, rfl⟩ := execIdleFail_next h; rfl
    · obtain ⟨-, rfl⟩ := execHalted_next h; rfl
  · subst hi
    obtain ⟨-, -, rfl⟩ := execBody_next h
    exact Memory.read_write_other _ _ ha
  · rcases hi with rfl | rfl | rfl | rfl | rfl | rfl
    · obtain ⟨-, rfl⟩ := execStart_next h; rfl
    · obtain ⟨-, f, -, rfl⟩ := execEndFrame_next h; rw [State.finish_eq]; rfl
    · obtain ⟨-, f, -, rfl⟩ := execEndMiss_next h; rfl
    · obtain ⟨-, rfl⟩ := execAbortB_next h; rfl
    · obtain ⟨-, rfl⟩ := execAbortE_next h; rfl
    · obtain ⟨-, rfl⟩ := execFatal_next h; rfl

/-- Settles O40. Only a store makes a cell live, and it is the one at `cnt`. -/
theorem onlyBodyWritesCells : Obligations.OnlyBodyWritesCells := by
  intro i s t a v h hcell
  cases (exec_effect h).1 with
  | keeps hc hb => exact .inl ((State.cell_congr hc hb a).symm.trans hcell)
  | discards hc => rw [State.cell_of_cnt_zero hc] at hcell; cases hcell
  | stores b hi hc hb =>
    rw [State.cell_congr (t := ({ s with buf := Memory.write s.buf s.cnt b } : State).advance) hc hb, State.cell_store] at hcell
    split at hcell
    case isTrue ha => exact .inr ⟨Option.some.inj hcell ▸ hi, ha⟩
    case isFalse => exact .inl hcell

/-- Settles O41. -/
theorem haltedOnlyByFatal : Obligations.HaltedOnlyByFatal := by
  intro i s t h
  cases (exec_effect h).1 with
  | keeps _ _ hh => simp +contextual [hh]
  | discards _ _ hh => simp +contextual [hh]
  | stores _ _ _ _ hh => simp +contextual [hh]

/-- Settles O42. A step waits or is an operation, and none writes RUN_OFF. -/
theorem registerMapImmutable : Obligations.RegisterMapImmutable := by
  refine ⟨fun i s t h => by rw [(exec_effect h).2], fun s t h => ?_⟩
  obtain ⟨-, rfl⟩ | ⟨ev, rest, -, hexec⟩ := step_next h
  · rfl
  · rw [(exec_effect hexec).2]

/-- Settles O43. A write keeps the form, and the empty list has it. -/
theorem memoryStaysCanonical : Obligations.MemoryStaysCanonical := by
  intro i s t hwf h
  cases (exec_effect h).1 with
  | keeps _ hb => rwa [hb]
  | discards _ hb => rw [hb]; exact List.Pairwise.nil
  | stores b _ _ hb => rw [hb]; exact Memory.wf_write hwf _ _

end Sys2Proof.Machine
end

section
/-! The decoder against the encoder and the operation map (R90, R91, R95): a selector word is its five control bits above its operand byte. -/

namespace Sys2Proof

/-- Settles O1, word by word. -/
theorem tabledWordsDecode : Obligations.TabledWordsDecode :=
  ⟨rfl, rfl, rfl, rfl, rfl, rfl, rfl, rfl, rfl, rfl, rfl, rfl⟩

/-- A selector word from its control bits (`halted`, `fsm`, `ev`) and its operand byte (R90). -/
def joinSelector (c : BitVec 5) (b : Byte) : BitVec 13 := c ++ b

/-- Every selector word is of that form. -/
theorem joinSelector_extractLsb' (w : BitVec 13) : joinSelector (w.extractLsb' 8 5) (w.extractLsb' 0 8) = w :=
  BitVec.extractLsb'_append_extractLsb' (w := 5) (len := 8)

theorem extractLsb'_joinSelector_control (c : BitVec 5) (b : Byte) : (joinSelector c b).extractLsb' 8 5 = c :=
  BitVec.extractLsb'_append_eq_left

theorem extractLsb'_joinSelector_byte (c : BitVec 5) (b : Byte) : (joinSelector c b).extractLsb' 0 8 = b :=
  BitVec.extractLsb'_append_eq_right

/-- The two bytes of a selector word decode as that word. -/
theorem decodeBytes_selectorBytes (w : BitVec 13) : decodeBytes (selectorBytes w) = decodeSelector w := by
  have hstray : ((w.extractLsb' 8 5).setWidth 8).extractLsb' 5 3 = 0#3 := by ext; simp
  have hcontrol : ((w.extractLsb' 8 5).setWidth 8).extractLsb' 0 5 = w.extractLsb' 8 5 := by
    rw [BitVec.extractLsb'_setWidth_of_le (by decide), BitVec.extractLsb'_eq_self]
  rw [selectorBytes, decodeBytes, if_pos hstray, hcontrol]
  exact congrArg decodeSelector (joinSelector_extractLsb' w)

/-- A match word with free operand bits, joined with an operand byte (R91). -/
theorem joinSelector_or (c : BitVec 5) (b : Byte) : joinSelector c 0#8 ||| b.setWidth 13 = joinSelector c b := by
  have hb : b.setWidth 13 = joinSelector 0#5 b := BitVec.setWidth_eq_append (by decide)
  rw [hb]
  exact BitVec.or_append.trans (by rw [BitVec.or_zero, BitVec.zero_or]; rfl)

/-- A match word with an operand byte decodes to the operation selected on that byte. -/
theorem decodeBytes_byte (f : Fsm) (b : Byte) :
    decodeBytes (selectorBytes (joinSelector (BitVec.ofBool false ++ Machine.fsmCode f ++ 0#2) 0#8 ||| b.setWidth 13)) =
      .ok (selectOp false f (.byte b)) := by
  rw [decodeBytes_selectorBytes, joinSelector_or]
  exact decodeSelector_selectorWord false f (.byte b)

/-- Settles O2. The operations with an operand byte by the selector word of that byte, the others by their one word. -/
theorem decodeOfEncode : Obligations.DecodeOfEncode := by
  intro i bs hwf h
  cases i with
  | skip b =>
    obtain rfl := Option.some.inj h
    exact (decodeBytes_byte .seekingStart b).trans (congrArg _ (Machine.selectOp_skip (bne_iff_ne.1 hwf)))
  | body b =>
    obtain rfl := Option.some.inj h
    exact decodeBytes_byte .readingBody b
  | endMiss b =>
    obtain rfl := Option.some.inj h
    exact (decodeBytes_byte .checkingEnd b).trans (congrArg _ (Machine.selectOp_endMiss (bne_iff_ne.1 hwf)))
  | halted | fatal | idleFail | abortB | abortE | start | endFrame =>
    obtain rfl := Option.some.inj h
    rfl
  | fCfg | fMode | fDir | fCyc | fRun | fIout | fVout | fVin | fQout | fTime =>
    obtain rfl := Option.some.inj h
    rfl
  | _ => cases h

/-- The control bits of a selector word are its three fields (R90). -/
theorem extractLsb'_control (w : BitVec 13) :
    w.extractLsb' 8 5 = BitVec.ofBool (selectorHalted w) ++ selectorFsm w ++ selectorEv w := by
  refine BitVec.eq_of_getLsbD_eq fun i hi => ?_
  have hbits : ∀ (x : BitVec 1) (y z : BitVec 2), BitVec.getLsbD (w := 5) (x ++ y ++ z) i =
      if i < 2 then z.getLsbD i else if i - 2 < 2 then y.getLsbD (i - 2) else x.getLsbD (i - 2 - 2) :=
    fun x y z => BitVec.getLsbD_append.trans (by rw [BitVec.getLsbD_append])
  refine Eq.trans ?_ (hbits _ _ _).symm
  interval_cases i <;> simp [selectorHalted, selectorFsm, selectorEv]

/-- A state code read has that state as its code, and every code but 11 is read (R90). -/
theorem fsmOfCode_cases (c : BitVec 2) :
    (∃ f, Machine.fsmOfCode c = some f ∧ c = Machine.fsmCode f) ∨ Machine.fsmOfCode c = none ∧ c = 0b11#2 := by
  unfold Machine.fsmOfCode
  split
  · exact .inl ⟨_, rfl, ‹_›⟩
  · split
    · exact .inl ⟨_, rfl, ‹_›⟩
    · split
      · exact .inl ⟨_, rfl, ‹_›⟩
      · exact .inr ⟨rfl, by bv_omega⟩

/-- An event code read has that event as its code, and every code but 11 is read (R89). -/
theorem evOfCode_cases (c : BitVec 2) (b : Byte) :
    (∃ ev, Machine.evOfCode c b = some ev ∧ c = Machine.evCode ev ∧ ∀ b', ev = .byte b' → b' = b) ∨
      Machine.evOfCode c b = none ∧ c = 0b11#2 := by
  unfold Machine.evOfCode
  split
  · exact .inl ⟨_, rfl, ‹_›, fun _ h => (InEvent.byte.inj h).symm⟩
  · split
    · exact .inl ⟨_, rfl, ‹_›, nofun⟩
    · split
      · exact .inl ⟨_, rfl, ‹_›, nofun⟩
      · exact .inr ⟨rfl, by bv_omega⟩

/-- No state and no event has the code 11 (R96(f)). -/
theorem fsmCode_ne (f : Fsm) : Machine.fsmCode f ≠ 0b11#2 := by cases f <;> decide

theorem evCode_ne (ev : InEvent) : Machine.evCode ev ≠ 0b11#2 := by cases ev <;> simp [Machine.evCode]

/-- All the decoder can do with a selector word: it reads the operation selected for the state and event it names, or a code is 11. -/
theorem decodeSelector_cases (w : BitVec 13) :
    (∃ f ev, decodeSelector w = .ok (selectOp (selectorHalted w) f ev) ∧ selectorFsm w = Machine.fsmCode f ∧
      selectorEv w = Machine.evCode ev ∧ ∀ b, ev = .byte b → b = selectorByte w) ∨
    (∃ e, decodeSelector w = .error e) ∧ (selectorFsm w = 0b11#2 ∨ selectorEv w = 0b11#2) := by
  unfold decodeSelector
  obtain ⟨f, hf, hfc⟩ | ⟨hf, hfc⟩ := fsmOfCode_cases (selectorFsm w)
  · obtain ⟨ev, hev, hevc, hb⟩ | ⟨hev, hevc⟩ := evOfCode_cases (selectorEv w) (selectorByte w)
    · exact .inl ⟨f, ev, by rw [hf, hev], hfc, hevc, hb⟩
    · exact .inr ⟨⟨_, by rw [hf, hev]⟩, .inr hevc⟩
  · exact .inr ⟨⟨_, by rw [hf]⟩, .inl hfc⟩

/-- A row whose mask leaves the operand byte free looks at the control bits alone (R91). -/
theorem joinSelector_control_test (c m k : BitVec 5) (b : Byte) :
    ((joinSelector c b &&& joinSelector m 0#8) == joinSelector k 0#8) = (c &&& m == k) := by
  have hand : joinSelector c b &&& joinSelector m 0#8 = joinSelector (c &&& m) 0#8 :=
    BitVec.and_append.trans (by rw [BitVec.and_zero]; rfl)
  rw [hand, Bool.eq_iff_iff, beq_iff_eq, beq_iff_eq]
  exact BitVec.append_left_inj 0#8

/-- A row whose mask is full looks at the whole word (R91). -/
theorem joinSelector_full_test (c k : BitVec 5) (b v : Byte) :
    ((joinSelector c b &&& 0x1FFF#13) == joinSelector k v) = (c == k && b == v) := by
  have hand : joinSelector c b &&& 0x1FFF#13 = joinSelector c b := BitVec.and_allOnes
  have hjoin : joinSelector c b = joinSelector k v ↔ c = k ∧ b = v := by
    refine ⟨fun h => ⟨?_, ?_⟩, fun ⟨hc, hb⟩ => by rw [hc, hb]⟩
    · rw [← extractLsb'_joinSelector_control c b, h, extractLsb'_joinSelector_control]
    · rw [← extractLsb'_joinSelector_byte c b, h, extractLsb'_joinSelector_byte]
  rw [hand, Bool.eq_iff_iff, beq_iff_eq, Bool.and_eq_true, beq_iff_eq, beq_iff_eq, hjoin]

/-- The rows of R91 in control bits and operand bytes. -/
theorem selectorRows_eq : selectorRows =
    [("HALTED", joinSelector 0x10#5 0#8, joinSelector 0x10#5 0#8), ("FATAL", joinSelector 0x13#5 0#8, joinSelector 0x02#5 0#8),
     ("IDLEFAIL", joinSelector 0x1F#5 0#8, joinSelector 0x01#5 0#8), ("ABORT.B", joinSelector 0x1F#5 0#8, joinSelector 0x05#5 0#8),
     ("ABORT.E", joinSelector 0x1F#5 0#8, joinSelector 0x09#5 0#8), ("START", 0x1FFF#13, joinSelector 0x00#5 0x7B#8),
     ("SKIP", joinSelector 0x1F#5 0#8, joinSelector 0x00#5 0#8), ("BODY", joinSelector 0x1F#5 0#8, joinSelector 0x04#5 0#8),
     ("END", 0x1FFF#13, joinSelector 0x08#5 0x7D#8), ("ENDMISS", joinSelector 0x1F#5 0#8, joinSelector 0x08#5 0#8)] := rfl

/-- The first row that fits a word is the operation selected for the state and event its control bits name. -/
theorem firstRow_joinSelector (h : Bool) (f : Fsm) (ev : InEvent) (b : Byte) (hb : ∀ b', ev = .byte b' → b' = b) :
    firstRow (joinSelector (BitVec.ofBool h ++ Machine.fsmCode f ++ Machine.evCode ev) b) = some (selectOp h f ev).mnemonic := by
  simp only [firstRow, selectorRows_eq, List.find?_cons, joinSelector_control_test, joinSelector_full_test]
  cases h with
  | true =>
    have hrow : ∀ e : BitVec 2, (BitVec.ofBool true ++ Machine.fsmCode f ++ e &&& 0x10#5 == 0x10#5) = true := by
      cases f <;> decide
    rw [hrow]
    rfl
  | false =>
    cases ev with
    | fatal => cases f <;> rfl
    | rdFail => cases f <;> rfl
    | byte b' =>
      obtain rfl := hb b' rfl
      have hev : Machine.evCode (.byte b') = 0b00#2 := rfl
      rw [hev]
      cases f with
      | seekingStart =>
        by_cases hs : b' = Machine.startSentinel
        · subst hs; rfl
        · have hstart : (b' == 0x7B#8) = false := beq_eq_false_iff_ne.2 hs
          rw [Machine.selectOp_skip hs, hstart, Bool.and_false]
          rfl
      | readingBody => rfl
      | checkingEnd =>
        by_cases hs : b' = Machine.endSentinel
        · subst hs; rfl
        · have hend : (b' == 0x7D#8) = false := beq_eq_false_iff_ne.2 hs
          rw [Machine.selectOp_endMiss hs, hend, Bool.and_false]
          rfl

/-- Settles O3. The decoder's answer names the state and event, which give the first row; without an answer a code is 11. -/
theorem selectorMapFirstMatch : Obligations.SelectorMapFirstMatch := by
  refine ⟨fun w i h => ?_, fun w => ?_⟩
  · obtain ⟨f, ev, hdec, hf, hev, hb⟩ | ⟨⟨e, hdec⟩, -⟩ := decodeSelector_cases w
    · obtain rfl := Except.ok.inj (hdec.symm.trans h)
      have hfirst := firstRow_joinSelector (selectorHalted w) f ev (selectorByte w) hb
      rwa [← hf, ← hev, ← extractLsb'_control, selectorByte, joinSelector_extractLsb'] at hfirst
    · cases hdec.symm.trans h
  · obtain ⟨f, ev, hdec, hf, hev, -⟩ | ⟨⟨e, hdec⟩, hcode⟩ := decodeSelector_cases w
    · simp only [hdec, hf, hev]
      exact ⟨fun _ => ⟨fsmCode_ne f, evCode_ne ev⟩, fun _ => ⟨_, rfl⟩⟩
    · simp only [hdec]
      exact ⟨nofun, fun ⟨hf, hev⟩ => absurd hcode (not_or.2 ⟨hf, hev⟩)⟩

/-- What the selector word selects is well-formed: SKIP and ENDMISS take what START and END leave. -/
theorem selectOp_wf (h : Bool) (f : Fsm) (ev : InEvent) : (selectOp h f ev).wf = true := by
  cases h with
  | true => rfl
  | false =>
    cases ev with
    | fatal => rfl
    | rdFail => cases f <;> rfl
    | byte b =>
      cases f with
      | seekingStart =>
        by_cases hb : b = Machine.startSentinel
        · subst hb; rfl
        · rw [Machine.selectOp_skip hb]
          exact bne_iff_ne.2 hb
      | readingBody => rfl
      | checkingEnd =>
        by_cases hb : b = Machine.endSentinel
        · subst hb; rfl
        · rw [Machine.selectOp_endMiss hb]
          exact bne_iff_ne.2 hb

/-- Every field id decodes to a well-formed field operation. -/
theorem decodeField_eq_ok {c : Nibble} {i : Instr} (h : decodeField c = .ok i) : i.wf = true ∧ i.format = .field := by
  unfold decodeField at h
  split at h <;> cases h <;> exact ⟨rfl, rfl⟩

/-- Settles O4. One byte is a field id, two are a selector word, and no other length is accepted. -/
theorem decoderAcceptsOnlyEncodings : Obligations.DecoderAcceptsOnlyEncodings := by
  intro bs i h
  unfold decodeBytes at h
  split at h
  · split at h
    · obtain ⟨hwf, hfmt⟩ := decodeField_eq_ok h
      exact ⟨hwf, .inr ⟨hfmt, rfl⟩⟩
    · cases h
  · split at h
    · obtain ⟨f, ev, hdec, -⟩ | ⟨⟨e, hdec⟩, -⟩ := decodeSelector_cases _
      · obtain rfl := Except.ok.inj (hdec.symm.trans h)
        exact ⟨selectOp_wf _ f ev, .inl ⟨beq_iff_eq.1 (Machine.selectOp_isStepOp _ f ev), rfl⟩⟩
      · cases hdec.symm.trans h
    · cases h
  · cases h

end Sys2Proof
end

section
/-! The Checksum Unit in numbers, its running form and what it cannot see (R151 to R156), and FIXF (R161). -/

namespace Sys2Proof.Machine

/-- CKEXT joins the two low nibbles (R151). -/
theorem ckext_eq_append (f : RawFrame) : ckext f = niblo (f.cell 72) ++ niblo (f.cell 73) := by
  refine BitVec.eq_of_getLsbD_eq fun i hi => ?_
  have happend : ∀ x y : Nibble, BitVec.getLsbD (w := 8) (x ++ y) i = if i < 4 then y.getLsbD i else x.getLsbD (i - 4) :=
    fun _ _ => BitVec.getLsbD_append
  rw [happend]
  interval_cases i <;> simp [ckext, niblo]

/-- CKEXT as a number: the high nibble counts sixteens. -/
theorem toNat_ckext (f : RawFrame) : (ckext f).toNat = f.transmitted := by
  have hlo : (niblo (f.cell 73)).toNat < 2 ^ 4 := (niblo (f.cell 73)).isLt
  rw [ckext_eq_append, BitVec.toNat_append, ← Nat.shiftLeft_add_eq_or_of_lt hlo, toNat_niblo, toNat_niblo, Nat.shiftLeft_eq]
  rfl

/-- Settles O16. -/
theorem ckextIsTrailerNibbles : Obligations.CkextIsTrailerNibbles :=
  fun _ f h => ⟨ckext f, exec_ckext_of_holds h, toNat_ckext f⟩

/-- The verdict in numbers. -/
theorem ckvfy_iff_toNat (f : RawFrame) : ckvfy f = true ↔ f.payloadSum % 256 = f.transmitted := by
  rw [ckvfy_iff, ← BitVec.toNat_inj, toNat_cksum, toNat_ckext]

/-- Settles O18. -/
theorem verifyIffTrailerEncodesSum : Obligations.VerifyIffTrailerEncodesSum := ckvfy_iff_toNat

/-- Adding bytes one by one in 8 bits adds their exact sum modulo 256. -/
theorem foldl_add_eq (l : List Byte) (acc : Byte) :
    l.foldl (fun a b => a + b) acc = acc + BitVec.ofNat 8 (l.map BitVec.toNat).sum := by
  induction l generalizing acc with
  | nil => simp
  | cons b l ih => rw [List.foldl_cons, ih, List.map_cons, List.sum_cons, BitVec.ofNat_add, BitVec.ofNat_toNat, BitVec.setWidth_eq,
      BitVec.add_assoc]

/-- Settles O19. -/
theorem runningSumEqualsCksum : Obligations.RunningSumEqualsCksum :=
  fun f => (foldl_add_eq f.payload 0#8).trans (BitVec.zero_add _)

/-- Settles O20. A sum does not see the order, and CKEXT reads low nibbles only. -/
theorem checksumBlindSpots : Obligations.ChecksumBlindSpots := by
  refine ⟨fun f g h => ?_, fun f g hhi hlo => ?_⟩
  · rw [cksum, cksum, (h.map BitVec.toNat).sum_eq]
  · rw [ckext_eq_append, ckext_eq_append, niblo, niblo, hhi, hlo]
    rfl

/-- Settles O24. FIXF's number is its bytes in radix 100, which a second byte below 100 lets be read back. -/
theorem fixfIsExactHundredths : Obligations.FixfIsExactHundredths := by
  refine ⟨fun _ b0 b1 => ⟨fixf b0 b1, rfl, toNat_radix100 b0 b1⟩, fun b0 b1 c0 c1 hb hc h => ?_⟩
  have hnum : b0.toNat * 100 + b1.toNat = c0.toNat * 100 + c1.toNat := by
    rw [← toNat_radix100, ← toNat_radix100]
    exact congrArg BitVec.toNat h
  exact ⟨BitVec.eq_of_toNat_eq (by omega), BitVec.eq_of_toNat_eq (by omega)⟩

end Sys2Proof.Machine
end

section
/-! The field operations that test bits or look an index up, on the frame in the buffer (R181 to R185). -/

namespace Sys2Proof.Machine

/-- The four config bits are bits 1 to 4 of cell 0 (R181). -/
theorem fCfg_registerMap (r : RunOff) (f : RawFrame) :
    ((fCfg (registerMap r) f).safetyTimer = 1#1 ↔ (f.cell 0).getLsbD 1 = true) ∧
    ((fCfg (registerMap r) f).capacityCutoff = 1#1 ↔ (f.cell 0).getLsbD 2 = true) ∧
    ((fCfg (registerMap r) f).keyBeep = 1#1 ↔ (f.cell 0).getLsbD 3 = true) ∧
    ((fCfg (registerMap r) f).buzzer = 1#1 ↔ (f.cell 0).getLsbD 4 = true) :=
  ⟨bitt_eq_one_iff (f.cell 0) (k := 1) (by decide), bitt_eq_one_iff (f.cell 0) (k := 2) (by decide),
    bitt_eq_one_iff (f.cell 0) (k := 3) (by decide), bitt_eq_one_iff (f.cell 0) (k := 4) (by decide)⟩

/-- Settles O26. -/
theorem configBitsAsTheyStand : Obligations.ConfigBitsAsTheyStand :=
  fun s f h => ⟨fCfg (registerMap s.runOff) f, withFrame_of_holds h _, fCfg_registerMap s.runOff f⟩

/-- An operation that looks an index up in a table of two labels answers 0 or 1 as it stands and OutOfRange from 2 on. -/
theorem withFrame_enumField_of_holds {s : State} {f : RawFrame} (h : s.HoldsFrame f) (e : MapEntry 1 EnumRule) {n : Nat}
    (hlen : e.rule.labels.length = 2) (hn : (enumValue e f).toNat = n) :
    ∃ r, withFrame s (fun g => .enumerated (enumField e g)) = .next { s with fout := .enumerated r } ∧
      (n ≤ 1 → ∃ v : Byte, r = .ok v ∧ v.toNat = n) ∧ (2 ≤ n → r = .outOfRange) := by
  refine ⟨enumField e f, withFrame_of_holds h _, fun hle => ⟨enumValue e f, enumField_of_lt ?_, hn⟩, fun hle => enumField_of_le ?_⟩
  · omega
  · omega

/-- Settles O28. Both fields look up a nibble of cell 23 among two labels. -/
theorem directionAndCycleNibbles : Obligations.DirectionAndCycleNibbles := fun s f h =>
  ⟨withFrame_enumField_of_holds h (registerMap s.runOff).dir rfl (registerMap_dir_value _ f),
    withFrame_enumField_of_holds h (registerMap s.runOff).cyc rfl (registerMap_cyc_value _ f)⟩

/-- Settles O29. F.RUN looks up the whole byte at RUN_OFF among two labels. -/
theorem runStateAtRunOff : Obligations.RunStateAtRunOff := fun s _ h =>
  withFrame_enumField_of_holds h (registerMap s.runOff).run rfl rfl

end Sys2Proof.Machine
end

section
/-! DECODE (R191): the checksum, then the four indices in order, then the Message; and what of the frame it reads (R59, R60, R192, R195). -/

namespace Sys2Proof.Machine

/-- The index is outside its table. -/
abbrev OutOfTable (e : MapEntry 1 EnumRule) (f : RawFrame) : Prop := e.rule.labels.length ≤ (enumValue e f).toNat

/-- An enum field is its index in its table or out of range (R166). -/
theorem enumField_eq (e : MapEntry 1 EnumRule) (f : RawFrame) :
    enumField e f = if OutOfTable e f then .outOfRange else .ok (enumValue e f) := rfl

/-- DECODE as the first of its tests that fails. -/
theorem decodeFrame_eq (rm : RegisterMap) (f : RawFrame) : decodeFrame rm f =
    if ckvfy f = true then
      if OutOfTable rm.mode f then .outOfRange .mode (enumValue rm.mode f)
      else if OutOfTable rm.dir f then .outOfRange .dir (enumValue rm.dir f)
      else if OutOfTable rm.cyc f then .outOfRange .cyc (enumValue rm.cyc f)
      else if OutOfTable rm.run f then .outOfRange .run (enumValue rm.run f)
      else .ok (buildMessage rm f (enumValue rm.mode f) (enumValue rm.dir f) (enumValue rm.cyc f) (enumValue rm.run f))
    else .checksumMismatch (cksum f) (ckext f) := by
  simp only [decodeFrame, fMode, fDir, fCyc, fRun, enumField_eq]
  by_cases hmode : OutOfTable rm.mode f
  · simp only [if_pos hmode]
  by_cases hdir : OutOfTable rm.dir f
  · simp only [if_neg hmode, if_pos hdir]
  by_cases hcyc : OutOfTable rm.cyc f
  · simp only [if_neg hmode, if_neg hdir, if_pos hcyc]
  by_cases hrun : OutOfTable rm.run f
  · simp only [if_neg hmode, if_neg hdir, if_neg hcyc, if_pos hrun]
  · simp only [if_neg hmode, if_neg hdir, if_neg hcyc, if_neg hrun]

/-- Each table of the map in scope in numbers (R182 to R185). -/
theorem outOfTable_mode_iff (r : RunOff) (f : RawFrame) : OutOfTable (registerMap r).mode f ↔ 7 ≤ f.num 22 := Iff.rfl

theorem outOfTable_dir_iff (r : RunOff) (f : RawFrame) : OutOfTable (registerMap r).dir f ↔ 2 ≤ f.num 23 % 16 :=
  registerMap_dir_value r f ▸ Iff.rfl

theorem outOfTable_cyc_iff (r : RunOff) (f : RawFrame) : OutOfTable (registerMap r).cyc f ↔ 2 ≤ f.num 23 / 16 :=
  registerMap_cyc_value r f ▸ Iff.rfl

theorem outOfTable_run_iff (r : RunOff) (f : RawFrame) : OutOfTable (registerMap r).run f ↔ 2 ≤ f.runNum r := Iff.rfl

/-- A byte below the range of a narrower field is that field's value. -/
theorem toNat_setWidth_of_lt {b : Byte} {w n : Nat} (hb : b.toNat = n) (hn : n < 2 ^ w) : (b.setWidth w).toNat = n := by
  rw [BitVec.toNat_setWidth, hb, Nat.mod_eq_of_lt hn]

/-- DECODE in numbers, for the map in scope: its tests in order, each with the value it reports. -/
theorem decodeFrame_registerMap (r : RunOff) (f : RawFrame) : decodeFrame (registerMap r) f =
    if f.payloadSum % 256 = f.transmitted then
      if 7 ≤ f.num 22 then .outOfRange .mode (f.cell 22)
      else if 2 ≤ f.num 23 % 16 then .outOfRange .dir (enumValue (registerMap r).dir f)
      else if 2 ≤ f.num 23 / 16 then .outOfRange .cyc (enumValue (registerMap r).cyc f)
      else if 2 ≤ f.runNum r then .outOfRange .run (f.byteAt r)
      else .ok (buildMessage (registerMap r) f (f.cell 22) (enumValue (registerMap r).dir f) (enumValue (registerMap r).cyc f) (f.byteAt r))
    else .checksumMismatch (cksum f) (ckext f) := by
  simp only [decodeFrame_eq, ckvfy_iff_toNat, outOfTable_mode_iff, outOfTable_dir_iff, outOfTable_cyc_iff, outOfTable_run_iff]
  rfl

/-- Settles O32. -/
theorem decodeInOrder : Obligations.DecodeInOrder := by
  intro s f h
  refine ⟨decodeFrame (registerMap s.runOff) f, withFrame_of_holds h _, ?_⟩
  rw [decodeFrame_registerMap]
  refine ⟨fun hck => ?_, fun hck hmode => ?_, fun hck hmode hdir => ?_, fun hck hmode hdir hcyc => ?_,
    fun hck hmode hdir hcyc hrun => ?_, fun hck hmode hdir hcyc hrun => ?_⟩
  · rw [if_neg hck]
    exact ⟨_, _, rfl, toNat_cksum f, toNat_ckext f⟩
  · rw [if_pos hck, if_pos hmode]
  · rw [if_pos hck, if_neg (by omega), if_pos hdir]
    exact ⟨_, rfl, registerMap_dir_value _ f⟩
  · rw [if_pos hck, if_neg (by omega), if_neg (by omega), if_pos hcyc]
    exact ⟨_, rfl, registerMap_cyc_value _ f⟩
  · rw [if_pos hck, if_neg (by omega), if_neg (by omega), if_neg (by omega), if_pos hrun]
    exact ⟨_, rfl, rfl⟩
  · rw [if_pos hck, if_neg (by omega), if_neg (by omega), if_neg (by omega), if_neg (by omega)]
    obtain ⟨htimer, hcutoff, hbeep, hbuzzer⟩ := fCfg_registerMap s.runOff f
    exact ⟨_, rfl, htimer, hcutoff, hbeep, hbuzzer, toNat_setWidth_of_lt (w := 3) rfl (by omega),
      toNat_setWidth_of_lt (w := 1) (registerMap_dir_value _ f) (by omega),
      toNat_setWidth_of_lt (w := 1) (registerMap_cyc_value _ f) (by omega), toNat_setWidth_of_lt (w := 1) rfl (by omega),
      toNat_numberField _ f, toNat_numberField _ f, toNat_numberField _ f, toNat_numberField _ f, toNat_numberField _ f⟩

/-- Settles O33. DECODE's answer is a function of the frame and RUN_OFF, and writing it leaves the frame in the buffer. -/
theorem decodeIsPure : Obligations.DecodeIsPure := by
  intro s t f hs ht hr
  refine ⟨decodeFrame (registerMap s.runOff) f, withFrame_of_holds hs _, ?_, withFrame_of_holds (s := s.answer _) hs _⟩
  rw [hr]
  exact withFrame_of_holds ht _

/-- A one-byte entry reads the cell it names. -/
theorem MapEntry.byte_congr {R : Type} (e : MapEntry 1 R) {f g : RawFrame}
    (h : ∀ i : Fin 72, i.val ∈ List.range' e.offset e.width → f.byteAt i = g.byteAt i) : e.byte f = e.byte g :=
  h _ (by simp [e.width_eq])

/-- A two-byte entry reads the two cells it names. -/
theorem MapEntry.pair_congr {R : Type} (e : MapEntry 2 R) {f g : RawFrame}
    (h : ∀ i : Fin 72, i.val ∈ List.range' e.offset e.width → f.byteAt i = g.byteAt i) : e.pair f = e.pair g := by
  have hfits : e.offset + e.width ≤ 72 := e.fits
  rw [e.width_eq] at hfits
  exact Prod.ext (h ⟨e.offset, by omega⟩ (by simp [e.width_eq])) (h ⟨e.offset + 1, by omega⟩ (by simp [e.width_eq]))

theorem enumValue_congr {e : MapEntry 1 EnumRule} {f g : RawFrame} (h : e.byte f = e.byte g) : enumValue e f = enumValue e g :=
  congrArg e.rule.part.value h

theorem numberField_congr {e : MapEntry 2 NumberRule} {f g : RawFrame} (h : e.pair f = e.pair g) :
    numberField e f = numberField e g := by
  rw [numberField_eq, numberField_eq, h]

/-- The two frames hold the same bytes in every cell a Register Map names. -/
structure RegisterMap.Agree (rm : RegisterMap) (f g : RawFrame) : Prop where
  cfg : rm.cfg.byte f = rm.cfg.byte g
  mode : rm.mode.byte f = rm.mode.byte g
  dir : rm.dir.byte f = rm.dir.byte g
  cyc : rm.cyc.byte f = rm.cyc.byte g
  run : rm.run.byte f = rm.run.byte g
  iout : rm.iout.pair f = rm.iout.pair g
  vout : rm.vout.pair f = rm.vout.pair g
  vin : rm.vin.pair f = rm.vin.pair g
  qout : rm.qout.pair f = rm.qout.pair g
  time : rm.time.pair f = rm.time.pair g

theorem RegisterMap.agree_of_cells {rm : RegisterMap} {f g : RawFrame} (h : ∀ i : Fin 72, i.val ∈ rm.cells → f.byteAt i = g.byteAt i) :
    rm.Agree f g := by
  simp only [RegisterMap.cells, List.mem_append] at h
  constructor
  · exact rm.cfg.byte_congr fun i hi => h i (by simp only [hi, true_or])
  · exact rm.mode.byte_congr fun i hi => h i (by simp only [hi, true_or, or_true])
  · exact rm.dir.byte_congr fun i hi => h i (by simp only [hi, true_or, or_true])
  · exact rm.cyc.byte_congr fun i hi => h i (by simp only [hi, true_or, or_true])
  · exact rm.run.byte_congr fun i hi => h i (by simp only [hi, true_or, or_true])
  · exact rm.iout.pair_congr fun i hi => h i (by simp only [hi, true_or, or_true])
  · exact rm.vout.pair_congr fun i hi => h i (by simp only [hi, true_or, or_true])
  · exact rm.vin.pair_congr fun i hi => h i (by simp only [hi, true_or, or_true])
  · exact rm.qout.pair_congr fun i hi => h i (by simp only [hi, true_or, or_true])
  · exact rm.time.pair_congr fun i hi => h i (by simp only [hi, or_true])

/-- The Message's fields are read from those cells. -/
theorem RegisterMap.Agree.buildMessage_eq {rm : RegisterMap} {f g : RawFrame} (h : rm.Agree f g) (mode dir cyc run : Byte) :
    buildMessage rm f mode dir cyc run = buildMessage rm g mode dir cyc run := by
  simp only [buildMessage, fCfg, fIout, fVout, fVin, fQout, fTime, h.cfg, numberField_congr h.iout, numberField_congr h.vout,
    numberField_congr h.vin, numberField_congr h.qout, numberField_congr h.time]

/-- Two frames with a good checksum that agree on the cells a map names decode alike under it. -/
theorem RegisterMap.Agree.decodeFrame_eq {rm : RegisterMap} {f g : RawFrame} (h : rm.Agree f g) (hf : ckvfy f = true)
    (hg : ckvfy g = true) : decodeFrame rm f = decodeFrame rm g := by
  rw [Machine.decodeFrame_eq, Machine.decodeFrame_eq, if_pos hf, if_pos hg]
  simp only [OutOfTable, enumValue_congr h.mode, enumValue_congr h.dir, enumValue_congr h.cyc,
    enumValue_congr h.run, h.buildMessage_eq]

/-- The map in scope names the assigned cells and the one at RUN_OFF (R59). -/
theorem mem_registerMap_cells (r : RunOff) (i : Nat) : i ∈ (registerMap r).cells ↔ i ∈ assignedCells ∨ i = r.val := by
  have hcells : (registerMap r).cells = [0, 22, 23, 23, r.val, 32, 33, 34, 35, 40, 41, 42, 43, 68, 69] := rfl
  rw [hcells]
  simp only [assignedCells, List.mem_cons, List.not_mem_nil, or_false]
  omega

/-- Settles O60. -/
theorem decodeReadsMapCells : Obligations.DecodeReadsMapCells :=
  ⟨fun _ _ _ hf hg h => (RegisterMap.agree_of_cells h).decodeFrame_eq hf hg, mem_registerMap_cells⟩

/-- Settles O34. The cells of the map in scope are the assigned ones and the one at RUN_OFF. -/
theorem unassignedCellsIgnored : Obligations.UnassignedCellsIgnored := by
  intro r f g hf hg h
  have hagree : (registerMap r).Agree f g := RegisterMap.agree_of_cells fun i hi =>
    h i (((mem_registerMap_cells r i).1 hi).imp_right Fin.ext)
  exact hagree.decodeFrame_eq hf hg

end Sys2Proof.Machine
end

section
/-! The round trip of a Message through a frame built from it, and RUN_OFF on the cell of the direction (R194, R196). -/

namespace Sys2Proof.Machine

/-- A frame whose trailer is built from its payload passes the checksum. -/
theorem ckvfy_of_trailerOf {f : RawFrame} {p : List Byte} (hp : p.length = 72) (h : f.bytes = p ++ trailerOf p) : ckvfy f = true := by
  have hpayload : f.payload = p := by rw [RawFrame.payload, h, List.take_left' hp]
  have hhi : f.cell 72 = BitVec.ofNat 8 ((p.map BitVec.toNat).sum % 256 / 16) := by
    simp [RawFrame.cell, h, hp, trailerOf]
  have hlo : f.cell 73 = BitVec.ofNat 8 ((p.map BitVec.toNat).sum % 256 % 16) := by
    simp [RawFrame.cell, h, hp, trailerOf]
  rw [ckvfy_iff, ← BitVec.toNat_inj, toNat_ckext, cksum, hpayload, RawFrame.transmitted, RawFrame.num, RawFrame.num, hhi, hlo]
  simp only [BitVec.toNat_ofNat]
  omega

theorem length_payloadOf (m : Message) : (payloadOf m).length = 72 := by simp [payloadOf]

/-- A cell of a frame built from a Message. -/
theorem byteAt_of_payloadOf {m : Message} {f : RawFrame} {t : List Byte} (h : f.bytes = payloadOf m ++ t) (i : Fin 72) :
    f.byteAt i = (payloadOf m)[i.val]'(by rw [length_payloadOf]; exact i.isLt) := by
  simp [RawFrame.byteAt, RawFrame.cell, h, length_payloadOf]

/-- The config byte of four bits (R84). -/
def configByte (t c k b : Bit) : Byte := t.setWidth 8 <<< 1 ||| c.setWidth 8 <<< 2 ||| k.setWidth 8 <<< 3 ||| b.setWidth 8 <<< 4

/-- It reads back as those bits. -/
theorem bitt_configByte : ∀ t c k b : Bit, bitt (configByte t c k b) 0x02#8 = t ∧ bitt (configByte t c k b) 0x04#8 = c ∧
    bitt (configByte t c k b) 0x08#8 = k ∧ bitt (configByte t c k b) 0x10#8 = b := by
  decide

/-- The state byte of a cycle mode and a direction reads back as the two (R86). -/
theorem value_of_nibbles : ∀ c d : Bit, BytePart.lowNibble.value (c.setWidth 8 <<< 4 ||| d.setWidth 8) = d.setWidth 8 ∧
    BytePart.highNibble.value (c.setWidth 8 <<< 4 ||| d.setWidth 8) = c.setWidth 8 := by
  decide

/-- A number up to 25599 reads back from its hundreds and its rest (R88, R194). -/
theorem radix100_div_mod {v : U16} (h : v.toNat ≤ 25599) :
    radix100 (BitVec.ofNat 8 (v.toNat / 100)) (BitVec.ofNat 8 (v.toNat % 100)) = v := by
  refine BitVec.eq_of_toNat_eq ?_
  rw [toNat_radix100, BitVec.toNat_ofNat, BitVec.toNat_ofNat]
  omega

/-- A two-byte field whose cells hold the hundreds and the rest of a number. -/
theorem numberField_of_bytes {e : MapEntry 2 NumberRule} {f : RawFrame} {v : U16} (h : v.toNat ≤ 25599)
    (hp : e.pair f = (BitVec.ofNat 8 (v.toNat / 100), BitVec.ofNat 8 (v.toNat % 100))) : numberField e f = v := by
  rw [numberField_eq, hp, radix100_div_mod h]

/-- The numbers of a Message in range. -/
theorem Message.inRange_iff (m : Message) : m.inRange = true ↔ m.mode.toNat ≤ 6 ∧ m.ioutC.toNat ≤ 25599 ∧ m.voutC.toNat ≤ 25599 ∧
    m.vinC.toNat ≤ 25599 ∧ m.qout.toNat ≤ 25599 ∧ m.time.toNat ≤ 25599 := by
  simp only [Message.inRange, Bool.and_eq_true, decide_eq_true_eq, and_assoc]

/-- What is built from the cells of a frame built from a Message is that Message. -/
theorem buildMessage_of_payloadOf {m : Message} {f : RawFrame} {t : List Byte} (hm : m.inRange = true)
    (h : f.bytes = payloadOf m ++ t) :
    buildMessage (registerMap 7) f (m.mode.setWidth 8) (m.dir.setWidth 8) (m.cyc.setWidth 8) (m.run.setWidth 8) = m := by
  obtain ⟨-, hiout, hvout, hvin, hqout, htime⟩ := m.inRange_iff.1 hm
  have hbyte := byteAt_of_payloadOf h
  have hcfg : f.byteAt 0 = configByte m.cfgSafetyTimer m.cfgCapacityCutoff m.cfgKeyBeep m.cfgBuzzer := hbyte 0
  have hiout' : fIout (registerMap 7) f = m.ioutC := numberField_of_bytes hiout (Prod.ext (hbyte 32) (hbyte 33))
  have hvout' : fVout (registerMap 7) f = m.voutC := numberField_of_bytes hvout (Prod.ext (hbyte 34) (hbyte 35))
  have hvin' : fVin (registerMap 7) f = m.vinC := numberField_of_bytes hvin (Prod.ext (hbyte 40) (hbyte 41))
  have hqout' : fQout (registerMap 7) f = m.qout := numberField_of_bytes hqout (Prod.ext (hbyte 42) (hbyte 43))
  have htime' : fTime (registerMap 7) f = m.time := numberField_of_bytes htime (Prod.ext (hbyte 68) (hbyte 69))
  obtain ⟨htimer, hcutoff, hbeep, hbuzzer⟩ := bitt_configByte m.cfgSafetyTimer m.cfgCapacityCutoff m.cfgKeyBeep m.cfgBuzzer
  have hbits : fCfg (registerMap 7) f = ⟨m.cfgSafetyTimer, m.cfgCapacityCutoff, m.cfgKeyBeep, m.cfgBuzzer⟩ := by
    rw [fCfg, registerMap_cfg_byte, hcfg]
    exact (CfgBits.mk.injEq ..).mpr ⟨htimer, hcutoff, hbeep, hbuzzer⟩
  simp [buildMessage, hbits, hiout', hvout', hvin', hqout', htime']

/-- A bit is an index of a table of two labels. -/
theorem not_outOfTable_of_bit {e : MapEntry 1 EnumRule} {f : RawFrame} {b : Bit} (hlen : e.rule.labels.length = 2)
    (hv : enumValue e f = b.setWidth 8) : ¬ OutOfTable e f := by
  have hb := b.isLt
  rw [OutOfTable, hlen, hv, BitVec.toNat_setWidth]
  omega

/-- Settles O35. The checksum is good, the four indices stand in their cells within their tables, and the fields read back. -/
theorem decodeOfBuiltFrame : Obligations.DecodeOfBuiltFrame := by
  intro m f hm h
  have hbyte := byteAt_of_payloadOf h
  obtain ⟨hlow, hhigh⟩ := value_of_nibbles m.cyc m.dir
  have hmodev : enumValue (registerMap 7).mode f = m.mode.setWidth 8 := hbyte 22
  have hdirv : enumValue (registerMap 7).dir f = m.dir.setWidth 8 := (congrArg BytePart.lowNibble.value (hbyte 23)).trans hlow
  have hcycv : enumValue (registerMap 7).cyc f = m.cyc.setWidth 8 := (congrArg BytePart.highNibble.value (hbyte 23)).trans hhigh
  have hrunv : enumValue (registerMap 7).run f = m.run.setWidth 8 := hbyte 7
  have hmode : ¬ OutOfTable (registerMap 7).mode f := by
    have hle := (m.inRange_iff.1 hm).1
    have hlen : (registerMap 7).mode.rule.labels.length = 7 := rfl
    rw [OutOfTable, hlen, hmodev, BitVec.toNat_setWidth]
    omega
  rw [decodeFrame_eq, if_pos (ckvfy_of_trailerOf (length_payloadOf m) h), if_neg hmode, if_neg (not_outOfTable_of_bit rfl hdirv),
    if_neg (not_outOfTable_of_bit rfl hcycv), if_neg (not_outOfTable_of_bit rfl hrunv), hmodev, hdirv, hcycv, hrunv,
    buildMessage_of_payloadOf hm h]

/-- An index that is answered is the one looked up, and in its table. -/
theorem enumField_eq_ok {e : MapEntry 1 EnumRule} {f : RawFrame} {v : Byte} (h : enumField e f = .ok v) :
    v = enumValue e f ∧ v.toNat < e.rule.labels.length := by
  rw [enumField_eq] at h
  split at h
  · cases h
  case isFalse hin =>
    obtain rfl := EnumResult.ok.inj h
    exact ⟨rfl, Nat.lt_of_not_le hin⟩

/-- Settles O36. The run state is the whole of cell 23, so it is 0 or 1, and with it both nibbles. -/
theorem runOffAt23 : Obligations.RunOffAt23 := by
  intro f m h
  obtain ⟨-, mode, dir, cyc, run, -, hdir, hcyc, hrun, rfl⟩ := decodeFrame_eq_ok h
  obtain ⟨hrunv, hlt⟩ := enumField_eq_ok hrun
  have hrunv' : run = f.cell 23 := hrunv
  have hdirv : dir = BytePart.lowNibble.value (f.cell 23) := (enumField_eq_ok hdir).1
  have hcycv : cyc = BytePart.highNibble.value (f.cell 23) := (enumField_eq_ok hcyc).1
  have hlt' : run.toNat < 2 := hlt
  have hcell : f.cell 23 = 0x00#8 ∨ f.cell 23 = 0x01#8 := by
    rw [← hrunv']
    bv_omega
  refine hcell.imp (fun hc => ?_) (fun hc => ?_)
  · rw [hc] at hrunv' hdirv hcycv
    subst hrunv' hdirv hcycv
    exact ⟨hc, rfl, rfl, rfl⟩
  · rw [hc] at hrunv' hdirv hcycv
    subst hrunv' hdirv hcycv
    exact ⟨hc, rfl, rfl, rfl⟩

end Sys2Proof.Machine
end
